-- ==== Sys2Proof/Word.lean ====
section
/-! DEFINITION. The words of the machine (10_state.md R20, R23, R24; 30_encoding.md R72). Every value is
unsigned (R9); all arithmetic is the wrapping arithmetic of `BitVec`, or exact arithmetic on `Nat`. -/

namespace Sys2Proof

/-- A general register, a timer or a byte of memory: 8 bits (R20, R31, R32, R50). -/
abbrev Byte := BitVec 8

/-- An instruction word, pc, I or a stack slot: 16 bits (R70, R23, R24, R26). -/
abbrev Word := BitVec 16

/-- The fields X, Y and N of a word, and a key symbol: 4 bits (R72, R29). -/
abbrev Nibble := BitVec 4

/-- The field NNN of a word: 12 bits (R72). -/
abbrev Addr := BitVec 12

end Sys2Proof
end

