-- ==== Sys2Proof/Config.lean ====
section
/-! DEFINITION. The constants of R7 (00_scope.md), the types of the open parameters of R8, and the one free
value of the machine: the random byte. The open parameters are one record, `Params`, which every state carries; the
spec's defaults of them stand in Machine/Params.lean. -/

namespace Sys2Proof.Config

/-- `MEM_SIZE` (R7): addresses 0x000 to 0xFFF. -/
abbrev memSize : Nat := 4096

/-- `PROG_BASE` (R7): where LOAD puts the first byte, and the reset value of pc. -/
abbrev progBase : Nat := 0x200

/-- `MAX_ROM` (R7): `MEM_SIZE − PROG_BASE`. -/
abbrev maxRom : Nat := 3584

/-- `SHIFT_SRC` (R8, D15): which register SHR and SHL shift. -/
inductive ShiftSrc where
  | vx
  | vy
  deriving DecidableEq, Repr

/-- `SYS_POLICY` (R8, D4): what a word 0x0NNN other than 0x00E0 and 0x00EE does. -/
inductive SysPolicy where
  | fail
  | nop
  deriving DecidableEq, Repr

/-- `FONT` (R8, R56): the 80 bytes that RESET puts at 0x000 to 0x04F. -/
abbrev Font : Type := Vector Byte 80

/-- The open parameters of R8 that a machine is configured with. `RND` is an input of each step and `TICK_HZ` enters
no rule, so neither stands here. -/
structure Params where
  /-- `FONT` (R56, D6) -/
  font : Font
  /-- `SHIFT_SRC` (R148, R150, D15) -/
  shiftSrc : ShiftSrc
  /-- `SYS_POLICY` (R79, D4) -/
  sysPolicy : SysPolicy
  deriving DecidableEq, Repr

/-- The byte `RND` the caller supplies to the draw numbered `n` (R8, R151, D20): a free value, so a claim
holds for every sequence of bytes. DESIGN CHOICE (log entry 1), safe. -/
opaque rndByte : Nat → Byte

end Sys2Proof.Config
end

