-- ==== Sys2Proof/Syntax.lean ====
section
/-! DEFINITION. The 34 instructions, one constructor per row of 30_encoding.md R76, in the table's order. A
constructor carries every field its row leaves free (R72), the ignored ones included (R84), so that no bit of
a word is lost. The width of a field is in its type. -/

namespace Sys2Proof

/-- One instruction (R76). -/
inductive Instr where
  /-- `00E0` CLS -/
  | cls
  /-- `00EE` RET -/
  | ret
  /-- `1NNN` JP NNN -/
  | jp (nnn : Addr)
  /-- `2NNN` CALL NNN -/
  | call (nnn : Addr)
  /-- `3XKK` SE Vx,KK -/
  | seByte (x : Nibble) (kk : Byte)
  /-- `4XKK` SNE Vx,KK -/
  | sneByte (x : Nibble) (kk : Byte)
  /-- `5XY0` SE Vx,Vy -/
  | seReg (x y : Nibble)
  /-- `6XKK` LD Vx,KK -/
  | ldByte (x : Nibble) (kk : Byte)
  /-- `7XKK` ADD Vx,KK -/
  | addByte (x : Nibble) (kk : Byte)
  /-- `8XY0` LD Vx,Vy -/
  | ldReg (x y : Nibble)
  /-- `8XY1` OR Vx,Vy -/
  | orReg (x y : Nibble)
  /-- `8XY2` AND Vx,Vy -/
  | andReg (x y : Nibble)
  /-- `8XY3` XOR Vx,Vy -/
  | xorReg (x y : Nibble)
  /-- `8XY4` ADD Vx,Vy -/
  | addReg (x y : Nibble)
  /-- `8XY5` SUB Vx,Vy -/
  | subReg (x y : Nibble)
  /-- `8XY6` SHR Vx; `y` names the source under `SHIFT_SRC = Vy` only -/
  | shr (x y : Nibble)
  /-- `8XY7` SUBN Vx,Vy -/
  | subnReg (x y : Nibble)
  /-- `8XYE` SHL Vx; `y` as in SHR -/
  | shl (x y : Nibble)
  /-- `9XY0` SNE Vx,Vy -/
  | sneReg (x y : Nibble)
  /-- `ANNN` LD I,NNN -/
  | ldI (nnn : Addr)
  /-- `BNNN` JP V0,NNN; `nnn` is decoded and ignored (R127) -/
  | jpV0 (nnn : Addr)
  /-- `CXKK` RND Vx,KK -/
  | rnd (x : Nibble) (kk : Byte)
  /-- `DXYN` DRW Vx,Vy,N -/
  | drw (x y n : Nibble)
  /-- `EX9E` SKP Vx -/
  | skp (x : Nibble)
  /-- `EXA1` SKNP Vx -/
  | sknp (x : Nibble)
  /-- `FX07` LD Vx,DT -/
  | ldFromDt (x : Nibble)
  /-- `FX0A` LD Vx,K -/
  | ldKey (x : Nibble)
  /-- `FX15` LD DT,Vx -/
  | ldDt (x : Nibble)
  /-- `FX18` LD ST,Vx -/
  | ldSt (x : Nibble)
  /-- `FX1E` ADD I,Vx -/
  | addI (x : Nibble)
  /-- `FX29` LD F,Vx -/
  | ldFont (x : Nibble)
  /-- `FX33` LD B,Vx -/
  | ldBcd (x : Nibble)
  /-- `FX55` LD [I],Vx -/
  | storeRegs (x : Nibble)
  /-- `FX65` LD Vx,[I] -/
  | loadRegs (x : Nibble)
  deriving DecidableEq, Repr

end Sys2Proof
end

