-- ==== Sys2Proof/WellFormed.lean ====
section
/-! DEFINITION. What may be given to the machine. Every term of `Instr` is well formed: the width of each
operand is in its type (R72). What can be ill formed is a word (R78), a ROM image (R235) and a key symbol
(R233). The check of a word is written from the table of R78, not from the decoder's rows, so that the two can
be held against each other. -/

namespace Sys2Proof

/-- The function codes of format X under the leading nibble F (R78, last row). -/
def fCodes : List Byte := [0x07, 0x0A, 0x15, 0x18, 0x1E, 0x29, 0x33, 0x55, 0x65]

/-- Is the word an instruction? The complement of the table of unrecognised words of R78. -/
def wellFormedWord (w : Word) : Bool :=
  let op := w.toNat / 4096
  let n := w.toNat % 16
  let kk := BitVec.ofNat 8 (w.toNat % 256)
  if op = 0x0 then decide (w = 0x00E0) || decide (w = 0x00EE)
  else if op = 0x5 then decide (n = 0)
  else if op = 0x8 then decide (n ≤ 7) || decide (n = 0xE)
  else if op = 0x9 then decide (n = 0)
  else if op = 0xE then decide (kk = 0x9E) || decide (kk = 0xA1)
  else if op = 0xF then fCodes.contains kk
  else true

/-- A ROM image LOAD takes: at most `MAX_ROM` bytes (R235). -/
def wellFormedRom (bytes : List Byte) : Bool := decide (bytes.length ≤ Config.maxRom)

/-- A key symbol KEY takes: 0 to 15 (R233). -/
def wellFormedKey (k : Nat) : Bool := decide (k ≤ 15)

end Sys2Proof
end

