-- ==== Sys2Proof/Decode.lean ====
section
/-! DEFINITION. The decoder and the encoder (30_encoding.md). The decoder is the ordered list of rows of R76,
tried in the order of R74: format L, format X, format R, then formats A, K and D. -/

namespace Sys2Proof

/-- Why some bytes are no instruction. -/
inductive Reject where
  /-- the word selects no row of R76 (R78) -/
  | unrecognised (w : Word)
  /-- fewer than the two bytes an instruction has (R70) -/
  | tooShort
  deriving DecidableEq, Repr

/-- Field X, bits 11 to 8 (R72). -/
def Word.x (w : Word) : Nibble := w.extractLsb' 8 4

/-- Field Y, bits 7 to 4 (R72). -/
def Word.y (w : Word) : Nibble := w.extractLsb' 4 4

/-- Field N, bits 3 to 0 (R72). -/
def Word.n (w : Word) : Nibble := w.extractLsb' 0 4

/-- Field KK, bits 7 to 0 (R72). -/
def Word.kk (w : Word) : Byte := w.extractLsb' 0 8

/-- Field NNN, bits 11 to 0 (R72). -/
def Word.nnn (w : Word) : Addr := w.extractLsb' 0 12

/-- One row of the opcode map: the word `w` selects it when `w & mask = pattern` (R74). -/
structure OpRow where
  mask : Word
  pattern : Word
  build : Word → Instr

/-- The two literal words (format L). -/
def rowsL : List OpRow :=
  [⟨0xFFFF#16, 0x00E0#16, fun _ => .cls⟩,
   ⟨0xFFFF#16, 0x00EE#16, fun _ => .ret⟩]

/-- The eleven rows of format X. -/
def rowsX : List OpRow :=
  [⟨0xF0FF#16, 0xE09E#16, fun w => .skp (Word.x w)⟩,
   ⟨0xF0FF#16, 0xE0A1#16, fun w => .sknp (Word.x w)⟩,
   ⟨0xF0FF#16, 0xF007#16, fun w => .ldFromDt (Word.x w)⟩,
   ⟨0xF0FF#16, 0xF00A#16, fun w => .ldKey (Word.x w)⟩,
   ⟨0xF0FF#16, 0xF015#16, fun w => .ldDt (Word.x w)⟩,
   ⟨0xF0FF#16, 0xF018#16, fun w => .ldSt (Word.x w)⟩,
   ⟨0xF0FF#16, 0xF01E#16, fun w => .addI (Word.x w)⟩,
   ⟨0xF0FF#16, 0xF029#16, fun w => .ldFont (Word.x w)⟩,
   ⟨0xF0FF#16, 0xF033#16, fun w => .ldBcd (Word.x w)⟩,
   ⟨0xF0FF#16, 0xF055#16, fun w => .storeRegs (Word.x w)⟩,
   ⟨0xF0FF#16, 0xF065#16, fun w => .loadRegs (Word.x w)⟩]

/-- The eleven rows of format R. -/
def rowsR : List OpRow :=
  [⟨0xF00F#16, 0x5000#16, fun w => .seReg (Word.x w) (Word.y w)⟩,
   ⟨0xF00F#16, 0x8000#16, fun w => .ldReg (Word.x w) (Word.y w)⟩,
   ⟨0xF00F#16, 0x8001#16, fun w => .orReg (Word.x w) (Word.y w)⟩,
   ⟨0xF00F#16, 0x8002#16, fun w => .andReg (Word.x w) (Word.y w)⟩,
   ⟨0xF00F#16, 0x8003#16, fun w => .xorReg (Word.x w) (Word.y w)⟩,
   ⟨0xF00F#16, 0x8004#16, fun w => .addReg (Word.x w) (Word.y w)⟩,
   ⟨0xF00F#16, 0x8005#16, fun w => .subReg (Word.x w) (Word.y w)⟩,
   ⟨0xF00F#16, 0x8006#16, fun w => .shr (Word.x w) (Word.y w)⟩,
   ⟨0xF00F#16, 0x8007#16, fun w => .subnReg (Word.x w) (Word.y w)⟩,
   ⟨0xF00F#16, 0x800E#16, fun w => .shl (Word.x w) (Word.y w)⟩,
   ⟨0xF00F#16, 0x9000#16, fun w => .sneReg (Word.x w) (Word.y w)⟩]

/-- The ten rows of formats A, K and D. -/
def rowsAKD : List OpRow :=
  [⟨0xF000#16, 0x1000#16, fun w => .jp (Word.nnn w)⟩,
   ⟨0xF000#16, 0x2000#16, fun w => .call (Word.nnn w)⟩,
   ⟨0xF000#16, 0x3000#16, fun w => .seByte (Word.x w) (Word.kk w)⟩,
   ⟨0xF000#16, 0x4000#16, fun w => .sneByte (Word.x w) (Word.kk w)⟩,
   ⟨0xF000#16, 0x6000#16, fun w => .ldByte (Word.x w) (Word.kk w)⟩,
   ⟨0xF000#16, 0x7000#16, fun w => .addByte (Word.x w) (Word.kk w)⟩,
   ⟨0xF000#16, 0xA000#16, fun w => .ldI (Word.nnn w)⟩,
   ⟨0xF000#16, 0xB000#16, fun w => .jpV0 (Word.nnn w)⟩,
   ⟨0xF000#16, 0xC000#16, fun w => .rnd (Word.x w) (Word.kk w)⟩,
   ⟨0xF000#16, 0xD000#16, fun w => .drw (Word.x w) (Word.y w) (Word.n w)⟩]

/-- The opcode map in the order the decoder tries it (R74, R76). -/
def opTable : List OpRow := rowsL ++ rowsX ++ rowsR ++ rowsAKD

/-- Does the word select the row? (R74) -/
def OpRow.selects (r : OpRow) (w : Word) : Bool := w &&& r.mask == r.pattern

/-- Decoding by a list of rows: the first row the word selects (R74, R102). -/
def decodeBy (rows : List OpRow) (w : Word) : Except Reject Instr :=
  match rows.find? (fun r => r.selects w) with
  | some r => .ok (r.build w)
  | none => .error (.unrecognised w)

/-- The decoder: total on every word (R73, R102). -/
def decode (w : Word) : Except Reject Instr := decodeBy opTable w

/-- Decoding from bytes as they lie in memory: the high byte first (R57, R70). -/
def decodeBytes : List Byte → Except Reject (Instr × List Byte)
  | hi :: lo :: rest =>
    match decode (hi ++ lo) with
    | .ok i => .ok (i, rest)
    | .error e => .error e
  | _ => .error .tooShort

/-- The word of an instruction, from the patterns of R76. -/
def encode : Instr → Word
  | .cls => 0x00E0#16
  | .ret => 0x00EE#16
  | .jp nnn => 0x1#4 ++ nnn
  | .call nnn => 0x2#4 ++ nnn
  | .seByte x kk => 0x3#4 ++ x ++ kk
  | .sneByte x kk => 0x4#4 ++ x ++ kk
  | .seReg x y => 0x5#4 ++ x ++ y ++ 0x0#4
  | .ldByte x kk => 0x6#4 ++ x ++ kk
  | .addByte x kk => 0x7#4 ++ x ++ kk
  | .ldReg x y => 0x8#4 ++ x ++ y ++ 0x0#4
  | .orReg x y => 0x8#4 ++ x ++ y ++ 0x1#4
  | .andReg x y => 0x8#4 ++ x ++ y ++ 0x2#4
  | .xorReg x y => 0x8#4 ++ x ++ y ++ 0x3#4
  | .addReg x y => 0x8#4 ++ x ++ y ++ 0x4#4
  | .subReg x y => 0x8#4 ++ x ++ y ++ 0x5#4
  | .shr x y => 0x8#4 ++ x ++ y ++ 0x6#4
  | .subnReg x y => 0x8#4 ++ x ++ y ++ 0x7#4
  | .shl x y => 0x8#4 ++ x ++ y ++ 0xE#4
  | .sneReg x y => 0x9#4 ++ x ++ y ++ 0x0#4
  | .ldI nnn => 0xA#4 ++ nnn
  | .jpV0 nnn => 0xB#4 ++ nnn
  | .rnd x kk => 0xC#4 ++ x ++ kk
  | .drw x y n => 0xD#4 ++ x ++ y ++ n
  | .skp x => 0xE#4 ++ x ++ 0x9E#8
  | .sknp x => 0xE#4 ++ x ++ 0xA1#8
  | .ldFromDt x => 0xF#4 ++ x ++ 0x07#8
  | .ldKey x => 0xF#4 ++ x ++ 0x0A#8
  | .ldDt x => 0xF#4 ++ x ++ 0x15#8
  | .ldSt x => 0xF#4 ++ x ++ 0x18#8
  | .addI x => 0xF#4 ++ x ++ 0x1E#8
  | .ldFont x => 0xF#4 ++ x ++ 0x29#8
  | .ldBcd x => 0xF#4 ++ x ++ 0x33#8
  | .storeRegs x => 0xF#4 ++ x ++ 0x55#8
  | .loadRegs x => 0xF#4 ++ x ++ 0x65#8

/-- The two bytes of an instruction as they lie in memory (R57). -/
def encodeBytes (i : Instr) : List Byte :=
  [(encode i).extractLsb' 8 8, (encode i).extractLsb' 0 8]

/-- The two bytes, as the hardware stores them, of a word of which the opcode table gives the low `nbits`
bits; the bits above are 0. -/
def tableBytes (nbits w : Nat) : List Byte :=
  let word : Word := BitVec.ofNat 16 (w % 2 ^ nbits)
  [word.extractLsb' 8 8, word.extractLsb' 0 8]

/-- What the decoder reads from the bytes of a word numbered as spec/opcode_table.json numbers it. -/
def decodeTableWord (nbits w : Nat) : Option Instr :=
  match decodeBytes (tableBytes nbits w) with
  | .ok (i, _) => some i
  | .error _ => none

end Sys2Proof
end

