-- ==== Sys2Proof/Machine/Params.lean ====
section
/-! DEFINITION. The defaults of the open parameters of 00_scope.md R8, which the spec's rules and vectors use. They
are the parameters of `State.reset`; a machine with any other parameters is `State.resetWith` of them. TICK_HZ is not
modelled: no rule depends on it (R8). -/

namespace Sys2Proof.Machine

/-- The default glyphs 0 to F, five bytes each (R56). -/
def Params.glyphs : List Byte :=
  [0xF0, 0x90, 0x90, 0x90, 0xF0] ++ [0x20, 0x60, 0x20, 0x20, 0x70] ++
  [0xF0, 0x10, 0xF0, 0x80, 0xF0] ++ [0xF0, 0x10, 0xF0, 0x10, 0xF0] ++
  [0x90, 0x90, 0xF0, 0x10, 0x10] ++ [0xF0, 0x80, 0xF0, 0x10, 0xF0] ++
  [0xF0, 0x80, 0xF0, 0x90, 0xF0] ++ [0xF0, 0x10, 0x20, 0x40, 0x40] ++
  [0xF0, 0x90, 0xF0, 0x90, 0xF0] ++ [0xF0, 0x90, 0xF0, 0x10, 0xF0] ++
  [0xF0, 0x90, 0xF0, 0x90, 0x90] ++ [0xE0, 0x90, 0xE0, 0x90, 0xE0] ++
  [0xF0, 0x80, 0x80, 0x80, 0xF0] ++ [0xE0, 0x90, 0x90, 0x90, 0xE0] ++
  [0xF0, 0x80, 0xF0, 0x80, 0xF0] ++ [0xF0, 0x80, 0xF0, 0x80, 0x80]

/-- The default of `FONT` (R56). DESIGN CHOICE (log entry 2): the font of `State.reset`, whose bytes the spec's source
does not give (G2). Unsafe from `State.reset`. -/
def Params.font : Config.Font := ⟨⟨Params.glyphs⟩, rfl⟩

/-- The default of `SHIFT_SRC` (R8): SHR and SHL shift V[X]. DESIGN CHOICE (log entry 3), unsafe from `State.reset`. -/
def Params.shiftSrc : Config.ShiftSrc := .vx

/-- The default of `SYS_POLICY` (R8): a word 0x0NNN that is no literal fails. DESIGN CHOICE (log entry 4), safe. -/
def Params.sysPolicy : Config.SysPolicy := .fail

/-- Every open parameter at its default (R8). -/
def Params.default : Config.Params where
  font := Params.font
  shiftSrc := Params.shiftSrc
  sysPolicy := Params.sysPolicy

end Sys2Proof.Machine
end

