-- ==== Sys2Proof/Machine/State.lean ====
section
/-! DEFINITION. The state of the machine (10_state.md R20 to R34), its faults (60_exceptions.md R221) and its
value after RESET (R36, R270). -/

namespace Sys2Proof.Machine

/-- Memory: (address, byte) pairs, addresses strictly rising. An unlisted address reads as its contents after
RESET (R36; `Memory.initial` in Machine/Ops.lean), and no listed byte equals it. -/
abbrev Memory := List Host.Cell

/-- The display buffer (R28): 32 rows from top to bottom, each of 64 pixels from left to right. -/
abbrev Display := Vector (Vector Bool 64) 32

/-- Everything the spec gives the machine (R34: there is no other state), with the open parameters it is configured
with (R8), and one field of the model's own, `rndDraws`. -/
structure State where
  /-- V0 to VF; VF is also the flag (R20, R21) -/
  v : Vector Byte 16
  /-- the index register I (R23) -/
  i : Word
  /-- the program counter (R24) -/
  pc : Word
  /-- the return addresses (R26) -/
  stack : Vector Word 16
  /-- the index of the next free slot, 0 to 16 (R27) -/
  sp : Fin 17
  /-- the display buffer (R28) -/
  disp : Display
  /-- the keypad flags (R29) -/
  key : Vector Bool 16
  /-- the current-key latch; `none` is no key symbol (R30) -/
  latch : Option Nibble
  /-- the delay timer (R31) -/
  dt : Byte
  /-- the sound timer (R32) -/
  st : Byte
  /-- the 4096 bytes of memory (R33, R50) -/
  mem : Memory
  /-- the open parameters (R8): configuration, which no operation changes (log entry 23) -/
  params : Config.Params
  /-- THE MODEL'S OWN, not the spec's: how many random bytes have been drawn (log entry 1) -/
  rndDraws : Nat
  deriving DecidableEq, Repr

/-- The statuses of STEP other than OK (R221), each with its info. A step that ends in one changes no state
(R224). Each stops where the spec says the machine reports a failure, so each is safe. -/
inductive Fault where
  /-- `DECODE_FAIL`: raised by the cycle when the fetched word `w` is no instruction (R78). Safe. -/
  | decodeFail (w : Word)
  /-- `FETCH_BOUNDS`: raised by the fetch when pc is 4095 or above (R60). Safe. -/
  | fetchBounds (pc : Word)
  /-- `MEM_BOUNDS`: raised by DRW, LD B, LD [I] and LD Vx,[I] when the highest address they need is above 4095
  (R61). Safe. -/
  | memBounds (addr : Nat)
  /-- `STACK_OVERFLOW`: raised by CALL when all sixteen slots are in use (R122). Safe. -/
  | stackOverflow
  /-- `STACK_UNDERFLOW`: raised by RET when no slot is in use (R120). Safe. -/
  | stackUnderflow
  /-- `KEY_RANGE`: raised by SKP and SKNP when V[X] is above 15 (R200, R201). Safe. -/
  | keyRange (k : Byte)
  deriving DecidableEq, Repr

/-- Why the model has no meaning to give. -/
inductive Refusal where
  /-- The instruction has no meaning yet: raised by `exec` alone. Safe. No arm of `exec` raises it: all 34
  instructions have their meaning. -/
  | notModelled (mnemonic : String)
  deriving DecidableEq, Repr

/-- What a step answers. -/
abbrev Result := Host.Outcome State Fault Refusal

/-- The machine with the given parameters right after RESET (R36, R270, R272). Memory lists nothing: every byte is at
its reset contents, the font included. -/
def State.resetWith (p : Config.Params) : State where
  v := Vector.replicate 16 0
  i := 0
  pc := 0x200
  stack := Vector.replicate 16 0
  sp := 0
  disp := Vector.replicate 32 (Vector.replicate 64 false)
  key := Vector.replicate 16 false
  latch := none
  dt := 0
  st := 0
  mem := []
  params := p
  rndDraws := 0

/-- The machine right after RESET, its parameters at the spec's defaults (R8). -/
def State.reset : State := State.resetWith Params.default

end Sys2Proof.Machine
end

