-- ==== Sys2Proof/Machine/Ops.lean ====
section
/-! DEFINITION. The named operations over memory, registers, stack, display and pc. -/

namespace Sys2Proof.Machine

/-! ### Memory (20_memory.md) -/

/-- What RESET puts at an address: the font from 0x000, and 0 above it (R36, R51). It is also what an unlisted
address reads as. -/
def Memory.initial (font : Config.Font) (a : Nat) : Byte := font.toList.getD a 0

/-- The byte at an address of a memory that RESET filled with `font` (R13). -/
def Memory.read (font : Config.Font) : Memory → Nat → Byte
  | [], a => Memory.initial font a
  | (k, b) :: rest, a => if k = a then b else Memory.read font rest a

/-- Put an entry in its place among rising addresses. -/
def Memory.insert : Memory → Nat → Byte → Memory
  | [], a, b => [(a, b)]
  | (k, c) :: rest, a, b =>
    if a < k then (a, b) :: (k, c) :: rest else (k, c) :: Memory.insert rest a b

/-- Forget what is listed at an address. -/
def Memory.erase (m : Memory) (a : Nat) : Memory := m.filter fun c => c.1 != a

/-- Write one byte, `MemWrite(a, 1, b)` (R13, R62). The bounds are checked before (R61); at an address the
machine does not have, nothing is stored. -/
def Memory.write (font : Config.Font) (m : Memory) (a : Nat) (b : Byte) : Memory :=
  if a < Config.memSize then
    if b = Memory.initial font a then m.erase a else (m.erase a).insert a b
  else m

/-- Write bytes at increasing addresses from `a` (R58). -/
def Memory.writeBytes (font : Config.Font) : Memory → Nat → List Byte → Memory
  | m, _, [] => m
  | m, a, b :: bs => Memory.writeBytes font (m.write font a b) (a + 1) bs

/-- The canonical form: addresses strictly rising and inside memory, and no entry that an unlisted address
would read as. -/
abbrev Memory.wf (font : Config.Font) (m : Memory) : Prop :=
  m.Pairwise (fun c d => c.1 < d.1) ∧ ∀ c ∈ m, c.1 < Config.memSize ∧ c.2 ≠ Memory.initial font c.1

/-- `Mem[a]` (R13). -/
def State.byte (s : State) (a : Nat) : Byte := s.mem.read s.params.font a

/-- Memory after an instruction's or the loader's writes (R33). -/
def State.setMem (s : State) (m : Memory) : State := { s with mem := m }

/-- Bytes stored at increasing addresses from `a` (R58). -/
def State.storeBytes (s : State) (a : Nat) (bs : List Byte) : State :=
  s.setMem (s.mem.writeBytes s.params.font a bs)

/-! ### Faults -/

/-- `raise` (R14): the step ends with a status and no change to any state (R224). There is no trap entry and
no return from one (R225, R226). -/
def raise (f : Fault) : Result := .fault f

/-- The check of a data access of `n` bytes from I (R61): the highest address, a natural number, is at most
4095; it is made before anything is read or written. No byte, no check. -/
def State.withData (n : Nat) (s : State) (k : Result) : Result :=
  if 0 < n ∧ Config.memSize ≤ s.i.toNat + n - 1 then raise (.memBounds (s.i.toNat + n - 1)) else k

/-! ### Registers and pc -/

/-- `V[x]` (R12, R20). -/
def State.reg (s : State) (x : Nibble) : Byte := s.v[x.toNat]'x.isLt

/-- `V[x] <- b` (R12, R20): no register is hard-wired. -/
def State.setReg (s : State) (x : Nibble) (b : Byte) : State := { s with v := s.v.set x.toNat b x.isLt }

/-- `V[x] <- b`, then `VF <- f` (R153): the flag is what stays when `x` is 15 (R276, D14). -/
def State.setRegFlag (s : State) (x : Nibble) (b f : Byte) : State := (s.setReg x b).setReg 15 f

/-- `I <- w` (R23). -/
def State.setI (s : State) (w : Word) : State := { s with i := w }

/-- `pc <- target` (R12, R24): any value, odd ones included. -/
def State.jump (s : State) (target : Word) : State := { s with pc := target }

/-- `pc <- pc + n`, modulo 65536 (R107). -/
def State.advance (s : State) (n : Word) : State := s.jump (s.pc + n)

/-- A skip (R25): `pc + 4` when the condition holds, else `pc + 2`. -/
def State.skipIf (s : State) (c : Bool) : State := s.advance (if c then 4 else 2)

/-- `DT <- b` (R31). -/
def State.setDt (s : State) (b : Byte) : State := { s with dt := b }

/-- `ST <- b` (R32). -/
def State.setSt (s : State) (b : Byte) : State := { s with st := b }

/-- `Latch <- l` (R30). -/
def State.setLatch (s : State) (l : Option Nibble) : State := { s with latch := l }

/-- `Disp <- d` (R28). -/
def State.setDisp (s : State) (d : Display) : State := { s with disp := d }

/-- One more random byte has been drawn (the model's own count, log entry 1). -/
def State.countDraw (s : State) : State := { s with rndDraws := s.rndDraws + 1 }

/-! ### The stack -/

/-- `Stack[sp] <- w; sp <- sp + 1`, or `STACK_OVERFLOW` when all sixteen slots are in use (R122). -/
def State.push (s : State) (w : Word) : Except Fault State :=
  if h : s.sp.val < 16 then
    .ok { s with stack := s.stack.set s.sp.val w h, sp := ⟨s.sp.val + 1, by omega⟩ }
  else .error .stackOverflow

/-- The newest return address, `Stack[sp − 1]`, and the state with `sp <- sp − 1`, or `STACK_UNDERFLOW` when
no slot is in use; the slot keeps its value (R120, R26). -/
def State.pop (s : State) : Except Fault (Word × State) :=
  if h : s.sp.val = 0 then .error .stackUnderflow
  else .ok (s.stack[s.sp.val - 1]'(by omega), { s with sp := ⟨s.sp.val - 1, by omega⟩ })

/-! ### Fetch -/

/-- Fetch (R60, R101): the word at pc, the high byte at the lower address (R57), at any parity (R59). -/
def State.fetch (s : State) : Except Fault Word :=
  if s.pc.toNat < 4095 then .ok (s.byte s.pc.toNat ++ s.byte (s.pc.toNat + 1))
  else .error (.fetchBounds s.pc)

/-! ### The display -/

/-- `Disp[x, y]` (R12, R28). -/
def Display.pixel (d : Display) (x : Fin 64) (y : Fin 32) : Bool := d[y.val][x.val]

/-- `Disp[x, y] <- b`. -/
def Display.setPixel (d : Display) (x : Fin 64) (y : Fin 32) (b : Bool) : Display :=
  d.set y.val (d[y.val].set x.val b)

/-- Every pixel off (R190). -/
def Display.blank : Display := Vector.replicate 32 (Vector.replicate 64 false)

end Sys2Proof.Machine
end

