-- ==== Sys2Proof/Machine/Operands.lean ====
section
/-! DEFINITION. The operand forms (30_encoding.md R75, 43_index_memory.md R172 to R176): immediates as they
stand, the source of a shift, the glyph address, the decimal digits, the registers V0 to V[X], a key flag, a
sprite row. -/

namespace Sys2Proof.Machine

/-- `NNN` zero-extended to an address (R75). -/
def addrWord (nnn : Addr) : Word := nnn.setWidth 16

/-- `zext_16` of a register (R127, R171). -/
def byteWord (b : Byte) : Word := b.setWidth 16

/-- A key symbol as a byte, 0x00 to 0x0F (R203). -/
def symbolByte (k : Nibble) : Byte := k.setWidth 8

/-- What a shift shifts, as `SHIFT_SRC` says (R148, R150). -/
def State.shiftSource (s : State) (x y : Nibble) : Byte :=
  match s.params.shiftSrc with
  | .vx => s.reg x
  | .vy => s.reg y

/-- The address of the glyph of a digit, five times the whole byte (R172, D18). -/
def glyphAddr (b : Byte) : Word := 5 * byteWord b

/-- The hundreds, tens and ones digits of a byte, in the order they are stored (R173). -/
def bcdDigits (b : Byte) : List Byte :=
  [BitVec.ofNat 8 (b.toNat / 100), BitVec.ofNat 8 (b.toNat / 10 % 10), BitVec.ofNat 8 (b.toNat % 10)]

/-- `V[0]` to `V[x]` (R174). -/
def State.regsUpTo (s : State) (x : Nibble) : List Byte := s.v.toList.take (x.toNat + 1)

/-- `for k in 0 .. n − 1: V[k] <- Mem[I + k]` (R175), the bytes those of `bytes` from `a` upward. -/
def State.fillRegs (s : State) (bytes : Nat → Byte) (a : Nat) : Nat → State
  | 0 => s
  | n + 1 => (s.fillRegs bytes a n).setReg (BitVec.ofNat 4 n) (bytes (a + n))

/-- The keypad flag that V[X] names, or `KEY_RANGE` when it names none (R200, R201). -/
def State.keyFlag (s : State) (x : Nibble) : Except Fault Bool :=
  if h : (s.reg x).toNat < 16 then .ok s.key[(s.reg x).toNat] else .error (.keyRange (s.reg x))

/-- `s[7 − b]` of a sprite row: bit 7 is the leftmost pixel (R191). -/
def spriteRowBit (row : Byte) (b : Nat) : Bool := row.getLsbD (7 - b)

end Sys2Proof.Machine
end

