-- ==== Sys2Proof/Machine/Flags.lean ====
section
/-! DEFINITION. Every flag the machine computes (42_alu.md R153): each is stored in VF as 0x00 or 0x01 (R21). -/

namespace Sys2Proof.Machine

/-- A flag as VF holds it (R21). -/
def flagByte (c : Bool) : Byte := if c then 1 else 0

/-- ADD Vx,Vy: the sum before the wrap is above 255 (R146). -/
def carryFlag (a b : Byte) : Byte := flagByte (decide (a.toNat + b.toNat > 255))

/-- SUB and SUBN: the minuend is strictly above the subtrahend (R147, R149). -/
def noBorrowFlag (minuend subtrahend : Byte) : Byte := flagByte (decide (minuend.toNat > subtrahend.toNat))

/-- SHR: bit 0 before the shift (R148). -/
def shiftOutRight (a : Byte) : Byte := flagByte (a.getLsbD 0)

/-- SHL: bit 7 before the shift (R150). -/
def shiftOutLeft (a : Byte) : Byte := flagByte (a.getLsbD 7)

/-- DRW: some pixel went from on to off (R191). -/
def collisionFlag (coll : Bool) : Byte := flagByte coll

end Sys2Proof.Machine
end

