-- ==== Sys2Proof/Machine/Alu.lean ====
section
/-! DEFINITION. Register loads, arithmetic and random (42_alu.md). -/

namespace Sys2Proof.Machine

/-- LD Vx,KK (R140). -/
def execLdByte (x : Nibble) (kk : Byte) (s : State) : Result := .next ((s.setReg x kk).advance 2)

/-- ADD Vx,KK (R141): no flag. -/
def execAddByte (x : Nibble) (kk : Byte) (s : State) : Result :=
  .next ((s.setReg x (s.reg x + kk)).advance 2)

/-- LD Vx,Vy (R142). -/
def execLdReg (x y : Nibble) (s : State) : Result := .next ((s.setReg x (s.reg y)).advance 2)

/-- OR Vx,Vy (R143): no flag. -/
def execOrReg (x y : Nibble) (s : State) : Result :=
  .next ((s.setReg x (s.reg x ||| s.reg y)).advance 2)

/-- AND Vx,Vy (R144): no flag. -/
def execAndReg (x y : Nibble) (s : State) : Result :=
  .next ((s.setReg x (s.reg x &&& s.reg y)).advance 2)

/-- XOR Vx,Vy (R145): no flag. -/
def execXorReg (x y : Nibble) (s : State) : Result :=
  .next ((s.setReg x (s.reg x ^^^ s.reg y)).advance 2)

/-- ADD Vx,Vy (R146). -/
def execAddReg (x y : Nibble) (s : State) : Result :=
  .next ((s.setRegFlag x (s.reg x + s.reg y) (carryFlag (s.reg x) (s.reg y))).advance 2)

/-- SUB Vx,Vy (R147). -/
def execSubReg (x y : Nibble) (s : State) : Result :=
  .next ((s.setRegFlag x (s.reg x - s.reg y) (noBorrowFlag (s.reg x) (s.reg y))).advance 2)

/-- SUBN Vx,Vy (R149). -/
def execSubnReg (x y : Nibble) (s : State) : Result :=
  .next ((s.setRegFlag x (s.reg y - s.reg x) (noBorrowFlag (s.reg y) (s.reg x))).advance 2)

/-- SHR Vx (R148): a logical shift by one of V[X], or of V[Y] under `SHIFT_SRC` = Vy. -/
def execShr (x y : Nibble) (s : State) : Result :=
  .next ((s.setRegFlag x (s.shiftSource x y >>> 1) (shiftOutRight (s.shiftSource x y))).advance 2)

/-- SHL Vx (R150): a shift by one of V[X], or of V[Y] under `SHIFT_SRC` = Vy. -/
def execShl (x y : Nibble) (s : State) : Result :=
  .next ((s.setRegFlag x (s.shiftSource x y <<< 1) (shiftOutLeft (s.shiftSource x y))).advance 2)

/-- RND Vx,KK with the byte `r` the caller supplies (R151); the draw is counted, so that the next one is a
fresh byte. -/
def execRndWith (r : Byte) (x : Nibble) (kk : Byte) (s : State) : Result :=
  .next ((s.setReg x (r &&& kk)).countDraw.advance 2)

/-- RND Vx,KK (R151): the byte is a free value (log entry 1). -/
def execRnd (x : Nibble) (kk : Byte) (s : State) : Result :=
  execRndWith (Config.rndByte s.rndDraws) x kk s

end Sys2Proof.Machine
end

