-- ==== Sys2Proof/Machine/Display.lean ====
section
/-! DEFINITION. Clear screen and draw (44_display.md). -/

namespace Sys2Proof.Machine

/-- CLS (R190). -/
def execCls (s : State) : Result := .next ((s.setDisp Display.blank).advance 2)

/-- The column of bit `b` of a sprite at `x0`, modulo 64 (R191). -/
def spriteCol (x0 : Byte) (b : Nat) : Fin 64 := Fin.ofNat 64 (x0.toNat + b)

/-- The display row of row `r` of a sprite at `y0`, modulo 32 (R191). -/
def spriteLine (y0 : Byte) (r : Nat) : Fin 32 := Fin.ofNat 32 (y0.toNat + r)

/-- One pixel of a draw: xor the bit in, and note a pixel that goes from on to off (R191). -/
def blitPixel (acc : Display × Bool) (x : Fin 64) (y : Fin 32) (bit : Bool) : Display × Bool :=
  let old := Display.pixel acc.1 x y
  let new := old ^^ bit
  (Display.setPixel acc.1 x y new, acc.2 || (old && !new))

/-- The first `n` pixels of a sprite row, from its left edge (R191, the loop over b). -/
def blitRow (x0 : Byte) (y : Fin 32) (row : Byte) : Nat → Display × Bool → Display × Bool
  | 0, acc => acc
  | n + 1, acc =>
    blitPixel (blitRow x0 y row n acc) (spriteCol x0 n) y (spriteRowBit row n)

/-- The first `n` rows of a sprite whose bytes are those of `bytes` from `a` upward (R191, the loop over r). -/
def blit (bytes : Nat → Byte) (a : Nat) (x0 y0 : Byte) : Nat → Display × Bool → Display × Bool
  | 0, acc => acc
  | n + 1, acc =>
    blitRow x0 (spriteLine y0 n) (bytes (a + n)) 8 (blit bytes a x0 y0 n acc)

/-- DRW Vx,Vy,N (R191): the coordinates are read before anything is written, VF is written last. -/
def execDrw (x y n : Nibble) (s : State) : Result :=
  s.withData n.toNat
    (let drawn := blit s.byte s.i.toNat (s.reg x) (s.reg y) n.toNat (s.disp, false)
     .next (((s.setDisp drawn.1).setReg 15 (collisionFlag drawn.2)).advance 2))

end Sys2Proof.Machine
end

