-- ==== Sys2Proof/Machine/Flow.lean ====
section
/-! DEFINITION. Control transfer (41_flow.md). -/

namespace Sys2Proof.Machine

/-- RET (R120): back to the instruction after the CALL whose address was pushed. -/
def execRet (s : State) : Result :=
  match s.pop with
  | .ok (ra, s') => .next (s'.jump (ra + 2))
  | .error f => raise f

/-- JP NNN (R121). -/
def execJp (nnn : Addr) (s : State) : Result := .next (s.jump (addrWord nnn))

/-- CALL NNN (R122): pushes its own address. -/
def execCall (nnn : Addr) (s : State) : Result :=
  match s.push s.pc with
  | .ok s' => .next (s'.jump (addrWord nnn))
  | .error f => raise f

/-- SE Vx,KK (R123). -/
def execSeByte (x : Nibble) (kk : Byte) (s : State) : Result := .next (s.skipIf (s.reg x == kk))

/-- SNE Vx,KK (R124). -/
def execSneByte (x : Nibble) (kk : Byte) (s : State) : Result := .next (s.skipIf (s.reg x != kk))

/-- SE Vx,Vy (R125). -/
def execSeReg (x y : Nibble) (s : State) : Result := .next (s.skipIf (s.reg x == s.reg y))

/-- SNE Vx,Vy (R126). -/
def execSneReg (x y : Nibble) (s : State) : Result := .next (s.skipIf (s.reg x != s.reg y))

/-- JP V0,NNN (R127): to I + V0; NNN is not used (C2). -/
def execJpV0 (_nnn : Addr) (s : State) : Result := .next (s.jump (s.i + byteWord (s.reg 0)))

end Sys2Proof.Machine
end

