-- ==== Sys2Proof/Machine/Index.lean ====
section
/-! DEFINITION. The index register and memory transfer (43_index_memory.md). I is never changed by an access
(R176). -/

namespace Sys2Proof.Machine

/-- LD I,NNN (R170). -/
def execLdI (nnn : Addr) (s : State) : Result := .next ((s.setI (addrWord nnn)).advance 2)

/-- ADD I,Vx (R171): modulo 65536, no flag. -/
def execAddI (x : Nibble) (s : State) : Result :=
  .next ((s.setI (s.i + byteWord (s.reg x))).advance 2)

/-- LD F,Vx (R172). -/
def execLdFont (x : Nibble) (s : State) : Result := .next ((s.setI (glyphAddr (s.reg x))).advance 2)

/-- LD B,Vx (R173). -/
def execLdBcd (x : Nibble) (s : State) : Result :=
  s.withData 3 (.next ((s.storeBytes s.i.toNat (bcdDigits (s.reg x))).advance 2))

/-- LD [I],Vx (R174). -/
def execStoreRegs (x : Nibble) (s : State) : Result :=
  s.withData (x.toNat + 1) (.next ((s.storeBytes s.i.toNat (s.regsUpTo x)).advance 2))

/-- LD Vx,[I] (R175). -/
def execLoadRegs (x : Nibble) (s : State) : Result :=
  s.withData (x.toNat + 1) (.next ((s.fillRegs s.byte s.i.toNat (x.toNat + 1)).advance 2))

end Sys2Proof.Machine
end

