-- ==== Sys2Proof/Machine/Keypad.lean ====
section
/-! DEFINITION. The keypad and timer instructions (45_keypad_timers.md). -/

namespace Sys2Proof.Machine

/-- SKP Vx (R200). -/
def execSkp (x : Nibble) (s : State) : Result :=
  match s.keyFlag x with
  | .ok pressed => .next (s.skipIf pressed)
  | .error f => raise f

/-- SKNP Vx (R201). -/
def execSknp (x : Nibble) (s : State) : Result :=
  match s.keyFlag x with
  | .ok pressed => .next (s.skipIf (!pressed))
  | .error f => raise f

/-- LD Vx,DT (R202). -/
def execLdFromDt (x : Nibble) (s : State) : Result := .next ((s.setReg x s.dt).advance 2)

/-- LD Vx,K (R203): with no key latched the step holds, answers OK and changes nothing. -/
def execLdKey (x : Nibble) (s : State) : Result :=
  match s.latch with
  | none => .next s
  | some k => .next (((s.setReg x (symbolByte k)).setLatch none).advance 2)

/-- LD DT,Vx (R204). -/
def execLdDt (x : Nibble) (s : State) : Result := .next ((s.setDt (s.reg x)).advance 2)

/-- LD ST,Vx (R205). -/
def execLdSt (x : Nibble) (s : State) : Result := .next ((s.setSt (s.reg x)).advance 2)

end Sys2Proof.Machine
end

