-- ==== Sys2Proof/Machine/Cycle.lean ====
section
/-! DEFINITION. The fetch-decode-execute cycle (40_cycle.md R101 to R111). -/

namespace Sys2Proof.Machine

/-- What a step does on a word that selects no row (R78, R79): `DECODE_FAIL`; under `SYS_POLICY` = nop a word
0x0NNN is one more instruction, which only advances pc. -/
def unrecognised (w : Word) (s : State) : Result :=
  match s.params.sysPolicy with
  | .fail => raise (.decodeFail w)
  | .nop => if w &&& 0xF000 = 0 then .next (s.advance 2) else raise (.decodeFail w)

/-- The phases of STEP in their order (R111, R223), for a way to execute the decoded instruction. -/
def cycle (ex : Instr → State → Result) (s : State) : Result :=
  match s.fetch with
  | .error f => raise f
  | .ok w =>
    match decode w with
    | .ok i => ex i s
    | .error _ => unrecognised w s

/-- Executing with the byte the caller supplies: it matters to RND alone (R108). -/
def execWith (r : Byte) (i : Instr) (s : State) : Result :=
  match i with
  | .rnd x kk => execRndWith r x kk s
  | _ => exec i s

/-- `STEP(RND)` (R100): one step with the byte the caller supplies. -/
def stepWith (r : Byte) (s : State) : Result := cycle (execWith r) s

end Sys2Proof.Machine
end

