-- ==== Sys2Proof/Machine/Step.lean ====
section
/-! DEFINITION. One step, and a word put where the step fetches. -/

namespace Sys2Proof.Machine

/-- `STEP` (R100) with a free random byte (log entry 1). -/
def step (s : State) : Host.Outcome State Fault Refusal := cycle exec s

/-- `s` with an instruction's two bytes where the next step fetches them, as LOAD would put them there (log
entry 10). At a pc that cannot be fetched from (R60) nothing is placed. -/
def State.withFetchWord (s : State) (nbits w : Nat) : State :=
  if s.pc.toNat < 4095 then s.storeBytes s.pc.toNat (tableBytes nbits w) else s

end Sys2Proof.Machine
end

