-- ==== Sys2Proof/Machine/HostOps.lean ====
section
/-! DEFINITION. The host's operations (60_exceptions.md R230 to R236, 70_reset_and_hazards.md R270) and the one
sequence of all six operations (R3, R4, R232). -/

namespace Sys2Proof.Machine

/-- `RESET` (R270): from any state, the state of R36 for the machine's parameters. The count of draws is the model's
own and goes on, so that a draw after RESET is a fresh byte too (log entry 1). -/
def State.resetOp (s : State) : State := { State.resetWith s.params with rndDraws := s.rndDraws }

/-- What LOAD answers (R235). -/
inductive LoadStatus where
  | loadOk
  | loadTooLong
  deriving DecidableEq, Repr

/-- `LOAD(bytes)` (R235, R236): the length is checked before the first byte is written. -/
def State.load (s : State) (bytes : List Byte) : LoadStatus × State :=
  if wellFormedRom bytes then (.loadOk, s.storeBytes Config.progBase bytes)
  else (.loadTooLong, s)

/-- One count of a timer: down by 1 when above 0 (R230). -/
def countDown (b : Byte) : Byte := if b = 0 then 0 else b - 1

/-- `TICK` (R230, R231): the tone is tested before the decrement. -/
def State.tick (s : State) : Bool × State :=
  (decide (s.st = 1), (s.setDt (countDown s.dt)).setSt (countDown s.st))

/-- `KEY(k, pressed)` for a key symbol (R233): a press is latched, a release leaves the latch. -/
def State.keyEvent (s : State) (k : Nibble) (pressed : Bool) : State :=
  let s' := { s with key := s.key.set k.toNat pressed k.isLt }
  if pressed then s'.setLatch (some k) else s'

/-- `DISPLAY` (R234): the 2048 pixels, row-major. -/
def State.display (s : State) : List Bool := s.disp.toList.flatMap fun row => row.toList

/-- One operation on the block (R3). -/
inductive Operation where
  | reset
  | load (bytes : List Byte)
  | step (rnd : Byte)
  | tick
  | key (k : Nat) (pressed : Bool)
  | display
  deriving DecidableEq, Repr

/-- What an operation answers. -/
inductive Answer where
  /-- RESET and KEY answer nothing -/
  | done
  | loaded (r : LoadStatus)
  /-- STEP answered OK -/
  | ok
  /-- STEP answered a fault (R221) -/
  | faulted (f : Fault)
  /-- STEP was refused by the model -/
  | unmodelled (r : Refusal)
  /-- TICK: did the tone trigger (R231) -/
  | tone (b : Bool)
  /-- a KEY event whose symbol is outside 0 to 15 is refused; it is no fault of the machine (R233) -/
  | keyRefused
  | pixels (d : List Bool)
  deriving DecidableEq, Repr

/-- One operation: its answer and the state after it. A step that faults leaves the state as it was (R224). -/
def operate (s : State) : Operation → Answer × State
  | .reset => (.done, s.resetOp)
  | .load bytes => (.loaded (s.load bytes).1, (s.load bytes).2)
  | .step r =>
    match stepWith r s with
    | .next t => (.ok, t)
    | .fault f => (.faulted f, s)
    | .refused e => (.unmodelled e, s)
  | .tick => (.tone s.tick.1, s.tick.2)
  | .key k pressed =>
    if wellFormedKey k then (.done, s.keyEvent (BitVec.ofNat 4 k) pressed) else (.keyRefused, s)
  | .display => (.pixels s.display, s)

/-- A sequence of operations in the order the host chose (R232): the answers, oldest first, and the last
state. -/
def runOps (s : State) : List Operation → List Answer × State
  | [] => ([], s)
  | op :: ops =>
    let r := operate s op
    let rest := runOps r.2 ops
    (r.1 :: rest.1, rest.2)

/-- The code of a status (R221); OK is 0. -/
def Fault.code : Fault → Nat
  | .decodeFail _ => 1
  | .fetchBounds _ => 2
  | .memBounds _ => 3
  | .stackOverflow => 4
  | .stackUnderflow => 5
  | .keyRange _ => 6

/-- The info returned with a status (R221). -/
def Fault.info : Fault → Option Nat
  | .decodeFail w => some w.toNat
  | .fetchBounds pc => some pc.toNat
  | .memBounds a => some a
  | .stackOverflow => none
  | .stackUnderflow => none
  | .keyRange k => some k.toNat

/-- The status code of a STEP's answer (R221): 0 for OK. A refusal is no status of the machine. -/
def statusCode : Result → Option Nat
  | .next _ => some 0
  | .fault f => some f.code
  | .refused _ => none

end Sys2Proof.Machine
end

