-- ==== Sys2Proof/Safety.lean ====
section
/-! DEFINITION. The terms claims use: the invariant, and the tables of the spec that say, instruction by
instruction, what may be written, where pc goes and what can be raised. They are written from those tables
(10_state.md R22, R25, R37; 20_memory.md R52; 60_exceptions.md R222), not from the meanings. -/

namespace Sys2Proof.Machine

/-- The invariant of the machine (R38). The widths are in the types of State; what is left is that memory keeps
its canonical form. -/
abbrev State.Inv (s : State) : Prop := s.mem.wf s.params.font

/-- Does the instruction write `V[r]`? (R22) -/
def writesReg : Instr → Nibble → Bool
  | .ldByte x _, r => r == x
  | .addByte x _, r => r == x
  | .ldReg x _, r => r == x
  | .orReg x _, r => r == x
  | .andReg x _, r => r == x
  | .xorReg x _, r => r == x
  | .addReg x _, r => r == x || r == 15
  | .subReg x _, r => r == x || r == 15
  | .shr x _, r => r == x || r == 15
  | .subnReg x _, r => r == x || r == 15
  | .shl x _, r => r == x || r == 15
  | .rnd x _, r => r == x
  | .drw _ _ _, r => r == 15
  | .ldFromDt x, r => r == x
  | .ldKey x, r => r == x
  | .loadRegs x, r => decide (r.toNat ≤ x.toNat)
  | .cls, _ => false
  | .ret, _ => false
  | .jp _, _ => false
  | .call _, _ => false
  | .seByte _ _, _ => false
  | .sneByte _ _, _ => false
  | .seReg _ _, _ => false
  | .sneReg _ _, _ => false
  | .ldI _, _ => false
  | .jpV0 _, _ => false
  | .skp _, _ => false
  | .sknp _, _ => false
  | .ldDt _, _ => false
  | .ldSt _, _ => false
  | .addI _, _ => false
  | .ldFont _, _ => false
  | .ldBcd _, _ => false
  | .storeRegs _, _ => false

/-- How many bytes of memory, from I upward, the instruction writes (R52). -/
def bytesStored : Instr → Nat
  | .ldBcd _ => 3
  | .storeRegs x => x.toNat + 1
  | .cls => 0
  | .ret => 0
  | .jp _ => 0
  | .call _ => 0
  | .seByte _ _ => 0
  | .sneByte _ _ => 0
  | .seReg _ _ => 0
  | .ldByte _ _ => 0
  | .addByte _ _ => 0
  | .ldReg _ _ => 0
  | .orReg _ _ => 0
  | .andReg _ _ => 0
  | .xorReg _ _ => 0
  | .addReg _ _ => 0
  | .subReg _ _ => 0
  | .shr _ _ => 0
  | .subnReg _ _ => 0
  | .shl _ _ => 0
  | .sneReg _ _ => 0
  | .ldI _ => 0
  | .jpV0 _ => 0
  | .rnd _ _ => 0
  | .drw _ _ _ => 0
  | .skp _ => 0
  | .sknp _ => 0
  | .ldFromDt _ => 0
  | .ldKey _ => 0
  | .ldDt _ => 0
  | .ldSt _ => 0
  | .addI _ => 0
  | .ldFont _ => 0
  | .loadRegs _ => 0

/-- The instructions that write I (R23). -/
def writesI (i : Instr) : Prop := (∃ nnn, i = .ldI nnn) ∨ (∃ x, i = .addI x) ∨ ∃ x, i = .ldFont x

/-- The instructions that write the display (R28). -/
def writesDisplay (i : Instr) : Prop := i = .cls ∨ ∃ x y n, i = .drw x y n

/-- Where pc is after the instruction is executed (R25). -/
def pcAfter (i : Instr) (s : State) : Word :=
  match i with
  | .jp nnn => BitVec.ofNat 16 nnn.toNat
  | .call nnn => BitVec.ofNat 16 nnn.toNat
  | .ret => s.stack.toList.getD (s.sp.val - 1) 0 + 2
  | .jpV0 _ => BitVec.ofNat 16 (s.i.toNat + (s.reg 0).toNat)
  | .seByte x kk => if s.reg x = kk then s.pc + 4 else s.pc + 2
  | .sneByte x kk => if s.reg x = kk then s.pc + 2 else s.pc + 4
  | .seReg x y => if s.reg x = s.reg y then s.pc + 4 else s.pc + 2
  | .sneReg x y => if s.reg x = s.reg y then s.pc + 2 else s.pc + 4
  | .skp x => if s.key.toList.getD (s.reg x).toNat false then s.pc + 4 else s.pc + 2
  | .sknp x => if s.key.toList.getD (s.reg x).toNat false then s.pc + 2 else s.pc + 4
  | .ldKey _ => if s.latch = none then s.pc else s.pc + 2
  | .cls => s.pc + 2
  | .ldByte _ _ => s.pc + 2
  | .addByte _ _ => s.pc + 2
  | .ldReg _ _ => s.pc + 2
  | .orReg _ _ => s.pc + 2
  | .andReg _ _ => s.pc + 2
  | .xorReg _ _ => s.pc + 2
  | .addReg _ _ => s.pc + 2
  | .subReg _ _ => s.pc + 2
  | .shr _ _ => s.pc + 2
  | .subnReg _ _ => s.pc + 2
  | .shl _ _ => s.pc + 2
  | .ldI _ => s.pc + 2
  | .rnd _ _ => s.pc + 2
  | .drw _ _ _ => s.pc + 2
  | .ldFromDt _ => s.pc + 2
  | .ldDt _ => s.pc + 2
  | .ldSt _ => s.pc + 2
  | .addI _ => s.pc + 2
  | .ldFont _ => s.pc + 2
  | .ldBcd _ => s.pc + 2
  | .storeRegs _ => s.pc + 2
  | .loadRegs _ => s.pc + 2

/-- The fault an instruction raises in a state, by the table of R222; `none` for "the other 26". -/
def faultOf (i : Instr) (s : State) : Option Fault :=
  match i with
  | .ret => if s.sp = 0 then some .stackUnderflow else none
  | .call _ => if s.sp = 16 then some .stackOverflow else none
  | .drw _ _ n =>
    if 0 < n.toNat ∧ s.i.toNat + n.toNat - 1 > 4095 then some (.memBounds (s.i.toNat + n.toNat - 1)) else none
  | .ldBcd _ => if s.i.toNat + 2 > 4095 then some (.memBounds (s.i.toNat + 2)) else none
  | .storeRegs x => if s.i.toNat + x.toNat > 4095 then some (.memBounds (s.i.toNat + x.toNat)) else none
  | .loadRegs x => if s.i.toNat + x.toNat > 4095 then some (.memBounds (s.i.toNat + x.toNat)) else none
  | .skp x => if (s.reg x).toNat > 15 then some (.keyRange (s.reg x)) else none
  | .sknp x => if (s.reg x).toNat > 15 then some (.keyRange (s.reg x)) else none
  | .cls => none
  | .jp _ => none
  | .seByte _ _ => none
  | .sneByte _ _ => none
  | .seReg _ _ => none
  | .ldByte _ _ => none
  | .addByte _ _ => none
  | .ldReg _ _ => none
  | .orReg _ _ => none
  | .andReg _ _ => none
  | .xorReg _ _ => none
  | .addReg _ _ => none
  | .subReg _ _ => none
  | .shr _ _ => none
  | .subnReg _ _ => none
  | .shl _ _ => none
  | .sneReg _ _ => none
  | .ldI _ => none
  | .jpV0 _ => none
  | .rnd _ _ => none
  | .ldFromDt _ => none
  | .ldKey _ => none
  | .ldDt _ => none
  | .ldSt _ => none
  | .addI _ => none
  | .ldFont _ => none

/-- The word at pc (R57), wherever pc is. -/
def State.wordAtPc (s : State) : Word :=
  BitVec.ofNat 16 ((s.byte s.pc.toNat).toNat * 256 + (s.byte (s.pc.toNat + 1)).toNat)

/-- The word at pc makes a step fail: it is unrecognised (R78), and is not one of the words 0x0NNN that `SYS_POLICY` =
nop gives an effect (R79). -/
def State.failsDecode (s : State) : Prop :=
  wellFormedWord s.wordAtPc = false ∧ ¬ (s.params.sysPolicy = .nop ∧ s.wordAtPc.toNat < 0x1000)

/-- The register a shift shifts (R148, R150). -/
def shiftedReg (s : State) (x y : Nibble) : Nibble := if s.params.shiftSrc = .vx then x else y

/-- Is the pixel under a 1 bit of the sprite of `n` rows whose bytes are those of `bytes` from `a` upward, drawn at (x0, y0)? (R191: the target of bit b of
row r is ((x0 + b) mod 64, (y0 + r) mod 32), bit 7 of a row byte is its leftmost pixel) -/
def spriteOn (bytes : Nat → Byte) (a : Nat) (x0 y0 : Byte) (n : Nat) (px : Fin 64) (py : Fin 32) : Bool :=
  (List.range n).any fun r =>
    (List.range 8).any fun b =>
      decide ((x0.toNat + b) % 64 = px.val) && decide ((y0.toNat + r) % 32 = py.val) &&
        (bytes (a + r)).getLsbD (7 - b)

/-- Every register reads as before. -/
def sameRegs (s t : State) : Prop := ∀ r, t.reg r = s.reg r

/-- Every byte of memory reads as before. -/
def sameMem (s t : State) : Prop := ∀ a, t.byte a = s.byte a

/-- Every stack slot and the stack pointer are as before. -/
def sameStack (s t : State) : Prop := t.stack = s.stack ∧ t.sp = s.sp

/-- Every pixel is as before. -/
def samePixels (s t : State) : Prop := ∀ x y, t.disp.pixel x y = s.disp.pixel x y

/-- The keypad flags and the latch are as before. -/
def sameKeypad (s t : State) : Prop := t.key = s.key ∧ t.latch = s.latch

/-- Both timers are as before. -/
def sameTimers (s t : State) : Prop := t.dt = s.dt ∧ t.st = s.st

/-- Everything but the V registers and pc is as before (the model's own count of draws apart). -/
def sameBeyondRegs (s t : State) : Prop :=
  t.i = s.i ∧ sameMem s t ∧ sameStack s t ∧ samePixels s t ∧ sameKeypad s t ∧ sameTimers s t

/-- The frame of a register instruction: every register but V[x], and everything but the registers and pc, is as
before. -/
def frameReg (x : Nibble) (s t : State) : Prop :=
  (∀ r, r ≠ x → t.reg r = s.reg r) ∧ sameBeyondRegs s t

/-- The frame of a flag-writing register instruction: every register but V[x] and VF, and everything but the
registers and pc, is as before. -/
def frameRegFlag (x : Nibble) (s t : State) : Prop :=
  (∀ r, r ≠ x → r ≠ 15 → t.reg r = s.reg r) ∧ sameBeyondRegs s t

/-- The frame of CALL and RET: everything but the stack, its pointer and pc is as before. -/
def frameStack (s t : State) : Prop :=
  sameRegs s t ∧ t.i = s.i ∧ sameMem s t ∧ samePixels s t ∧ sameKeypad s t ∧ sameTimers s t

/-- The frame of an instruction that writes I: everything but I and pc is as before. -/
def frameIndex (s t : State) : Prop :=
  sameRegs s t ∧ sameMem s t ∧ sameStack s t ∧ samePixels s t ∧ sameKeypad s t ∧ sameTimers s t

/-- The frame of a storing instruction: everything but memory and pc is as before. -/
def frameStore (s t : State) : Prop :=
  sameRegs s t ∧ t.i = s.i ∧ sameStack s t ∧ samePixels s t ∧ sameKeypad s t ∧ sameTimers s t

/-- The frame of CLS: everything but the display and pc is as before. -/
def frameClear (s t : State) : Prop :=
  sameRegs s t ∧ t.i = s.i ∧ sameMem s t ∧ sameStack s t ∧ sameKeypad s t ∧ sameTimers s t

/-- The frame of DRW: everything but the display, VF and pc is as before. -/
def frameDraw (s t : State) : Prop :=
  (∀ r, r ≠ 15 → t.reg r = s.reg r) ∧ t.i = s.i ∧ sameMem s t ∧ sameStack s t ∧ sameKeypad s t ∧
    sameTimers s t

/-- The frame of a completed key wait: everything but V[x], the latch and pc is as before. -/
def frameKeyWait (x : Nibble) (s t : State) : Prop :=
  (∀ r, r ≠ x → t.reg r = s.reg r) ∧ t.i = s.i ∧ sameMem s t ∧ sameStack s t ∧ samePixels s t ∧
    t.key = s.key ∧ sameTimers s t

/-- Everything but the two timers and pc is as before. -/
def frameTimer (s t : State) : Prop :=
  sameRegs s t ∧ t.i = s.i ∧ sameMem s t ∧ sameStack s t ∧ samePixels s t ∧ sameKeypad s t

end Sys2Proof.Machine
end

