-- ==== Sys2Proof/Certificates/Slice0/Obligations.lean ====
section
/-! DEFINITION. What is claimed of the machine, from the numbered rules of spec/. Each statement's docstring names
its rules. -/

open Sys2Proof Sys2Proof.Machine

/-! ### Encoding and decoding -/

/-- R72, R76, vectors E1 to E10: words written out from the patterns, one or more of each family. -/
def Obligations.SpecWordsDecode : Prop :=
  decode 0xD12A#16 = .ok (.drw 1 2 10) ∧ decode 0x1234#16 = .ok (.jp 0x234) ∧
  decode 0x8AB4#16 = .ok (.addReg 10 11) ∧ decode 0xF165#16 = .ok (.loadRegs 1) ∧
  decode 0x00E0#16 = .ok .cls ∧ decode 0x00EE#16 = .ok .ret ∧ decode 0xE19E#16 = .ok (.skp 1) ∧
  decode 0x5AB0#16 = .ok (.seReg 10 11) ∧ decode 0x5AB1#16 = .error (.unrecognised 0x5AB1) ∧
  decode 0xFFFF#16 = .error (.unrecognised 0xFFFF)

/-- R72, R76, R84: no bit of an instruction is lost. -/
def Obligations.DecodeOfEncode : Prop := ∀ i : Instr, decode (encode i) = .ok i

/-- R70, R76: each recognised word is the word of one instruction alone. -/
def Obligations.EncodeOfDecode : Prop := ∀ (w : Word) (i : Instr), decode w = .ok i → encode i = w

/-- R77: the rows tried in any order give the same decoder. -/
def Obligations.RowOrderIsImmaterial : Prop :=
  ∀ (rows : List OpRow) (w : Word), rows.Perm opTable → decodeBy rows w = decode w

/-- R78: the words that select none of the 34 rows are those of the table of R78. What a step does on one is below. -/
def Obligations.UnrecognisedWordsAreTheTable : Prop :=
  ∀ w : Word, (wellFormedWord w = true → ∃ i, decode w = .ok i) ∧
    (wellFormedWord w = false → decode w = .error (.unrecognised w))

/-- R79: a word 0x0NNN other than the two literals is unrecognised. Where `SYS_POLICY` is fail it faults and changes
nothing; where it is nop its only effect is `pc <- pc + 2`. -/
def Obligations.SysWordsFailOrAdvance : Prop :=
  ∀ (s : State) (r : Byte), s.pc.toNat < 4095 → s.wordAtPc.toNat < 0x1000 →
    s.wordAtPc ≠ 0x00E0#16 → s.wordAtPc ≠ 0x00EE#16 →
    decode s.wordAtPc = .error (.unrecognised s.wordAtPc) ∧
    (s.params.sysPolicy = .fail → step s = .fault (.decodeFail s.wordAtPc) ∧
      operate s (.step r) = (.faulted (.decodeFail s.wordAtPc), s)) ∧
    (s.params.sysPolicy = .nop → ∃ t, step s = .next t ∧ operate s (.step r) = (.ok, t) ∧ t.pc = s.pc + 2 ∧
      sameRegs s t ∧ sameBeyondRegs s t)

/-! ### The step -/

/-- R57: the high byte is the one at the lower address; the source's example. -/
def Obligations.FetchIsBigEndian : Prop :=
  (∀ s : State, s.pc.toNat < 4095 → ∃ w, s.fetch = .ok w ∧
    w.toNat = (s.byte s.pc.toNat).toNat * 256 + (s.byte (s.pc.toNat + 1)).toNat) ∧
  (let t := (State.reset.load [0x12, 0x34]).2
   t.byte 0x200 = 0x12 ∧ t.byte 0x201 = 0x34 ∧ t.fetch = .ok 0x1234#16)

/-- R103, R111: when the word at pc decodes, the step is the execution of that instruction and nothing is added
around it. -/
def Obligations.StepRunsDecodedInstruction : Prop :=
  ∀ (s : State) (i : Instr), s.pc.toNat < 4095 → decode s.wordAtPc = .ok i →
    step s = exec i s ∧ ∀ r : Byte, stepWith r s = execWith r i s

/-- R60: a fetch that would pass 4095 faults and changes nothing; it does not wrap. -/
def Obligations.FetchOutOfBoundsFaults : Prop :=
  ∀ (s : State) (r : Byte), 4095 ≤ s.pc.toNat →
    step s = .fault (.fetchBounds s.pc) ∧
    operate s (.step r) = (.faulted (.fetchBounds s.pc), s)

/-- R78, R111: a step on an unrecognised word reports `DECODE_FAIL` with the word and changes nothing; a word 0x0NNN only where `SYS_POLICY` is fail (R79). -/
def Obligations.DecodeFailureChangesNothing : Prop :=
  ∀ (s : State) (r : Byte), s.pc.toNat < 4095 → s.failsDecode →
    step s = .fault (.decodeFail s.wordAtPc) ∧
    operate s (.step r) = (.faulted (.decodeFail s.wordAtPc), s)

/-- R222, R223: which fault a step raises, exactly: the fetch's, then the decoder's, then the instruction's own by
the table of R222. A word 0x0NNN fails the decoder only where `SYS_POLICY` is fail (R79). -/
def Obligations.StepFaultsExactlyByTable : Prop :=
  ∀ (s : State) (f : Fault), step s = .fault f ↔
    (4095 ≤ s.pc.toNat ∧ f = .fetchBounds s.pc) ∨
    (s.pc.toNat < 4095 ∧ s.failsDecode ∧ f = .decodeFail s.wordAtPc) ∨
    (s.pc.toNat < 4095 ∧ ∃ i, decode s.wordAtPc = .ok i ∧ faultOf i s = some f)

/-- R25, R103: where the table of R222 names no fault, the instruction completes, and pc is where the table of R25
puts it; a step that faults leaves pc. -/
def Obligations.EveryInstructionMovesPcByTable : Prop :=
  (∀ (i : Instr) (s : State), faultOf i s = none → ∃ t, exec i s = .next t ∧ t.pc = pcAfter i s) ∧
  ∀ (s : State) (r : Byte) (f : Fault), (operate s (.step r)).1 = .faulted f →
    (operate s (.step r)).2.pc = s.pc

/-- 93_implementation_defined.md, end: every step answers a new state or a fault; the model refuses none. -/
def Obligations.NoStepIsRefused : Prop :=
  ∀ (s : State) (e : Refusal) (r : Byte), step s ≠ .refused e ∧ stepWith r s ≠ .refused e

/-- R224: a step that faults changes nothing. -/
def Obligations.FaultChangesNothing : Prop :=
  ∀ (s : State) (r : Byte) (f : Fault), (operate s (.step r)).1 = .faulted f → (operate s (.step r)).2 = s

/-- R109: after a fault, whatever steps, ticks, key events and display reads follow, every further step reports the
same fault; only RESET and LOAD can end that. -/
def Obligations.FaultRepeatsUntilResetOrLoad : Prop :=
  ∀ (s : State) (f : Fault) (ops : List Operation) (r : Byte), step s = .fault f →
    (∀ op ∈ ops, op ≠ .reset ∧ ∀ bytes, op ≠ .load bytes) →
    (operate (runOps s ops).2 (.step r)).1 = .faulted f

/-- R108: the random byte matters to RND alone. That the model's own step is STEP at a free byte is the model's
choice (log entry 1). -/
def Obligations.RandomByteMattersToRndAlone : Prop :=
  (∀ s : State, step s = stepWith (Config.rndByte s.rndDraws) s) ∧
  ∀ (s : State) (r r' : Byte), (∀ x kk, decode s.wordAtPc ≠ .ok (.rnd x kk)) → stepWith r s = stepWith r' s

/-- R108: the keypad flags and the latch matter only to SKP, SKNP and LD Vx,K. -/
def Obligations.KeypadMattersToKeypadInstructionsAlone : Prop :=
  ∀ (i : Instr) (s : State) (key : Vector Bool 16) (latch : Option Nibble),
    (∀ x, i ≠ .skp x) → (∀ x, i ≠ .sknp x) → (∀ x, i ≠ .ldKey x) →
    (∀ t, exec i s = .next t → exec i { s with key := key, latch := latch } =
      .next { t with key := key, latch := latch }) ∧
    ∀ f, exec i s = .fault f → exec i { s with key := key, latch := latch } = .fault f

/-- R286: at a jump to itself a step answers OK and changes nothing. -/
def Obligations.SelfJumpStays : Prop :=
  ∀ (s : State) (nnn : Addr), s.pc.toNat < 4095 → decode s.wordAtPc = .ok (.jp nnn) →
    nnn.toNat = s.pc.toNat → step s = .next s

/-! ### Control transfer -/

/-- R121, R127: JP NNN goes to NNN; JP V0,NNN to I + V0 modulo 65536, whatever NNN. Neither checks its target. -/
def Obligations.JumpsSetPc : Prop :=
  ∀ (nnn : Addr) (s : State),
    decode (0x1#4 ++ nnn) = .ok (.jp nnn) ∧ decode (0xB#4 ++ nnn) = .ok (.jpV0 nnn) ∧
    (∃ t, exec (.jp nnn) s = .next t ∧ t.pc.toNat = nnn.toNat ∧ sameRegs s t ∧ sameBeyondRegs s t) ∧
    ∃ t, exec (.jpV0 nnn) s = .next t ∧ t.pc.toNat = (s.i.toNat + (s.reg 0).toNat) % 65536 ∧
      sameRegs s t ∧ sameBeyondRegs s t

/-- R122: the address of the CALL itself goes into the free slot; a full stack faults. -/
def Obligations.CallPushesItsOwnAddress : Prop :=
  ∀ (nnn : Addr) (s : State), decode (0x2#4 ++ nnn) = .ok (.call nnn) ∧
    (s.sp.val < 16 → ∃ t, exec (.call nnn) s = .next t ∧ t.pc.toNat = nnn.toNat ∧
      t.sp.val = s.sp.val + 1 ∧
      (∀ (k : Nat) (h : k < 16), t.stack[k] = if k = s.sp.val then s.pc else s.stack[k]) ∧
      frameStack s t) ∧
    (s.sp.val = 16 → exec (.call nnn) s = .fault .stackOverflow)

/-- R120: to the newest return address plus 2, the slot keeping its value; an empty stack faults. -/
def Obligations.ReturnGoesPastTheCall : Prop :=
  ∀ s : State, decode 0x00EE#16 = .ok .ret ∧
    (∀ (k : Nat) (h : k < 16), s.sp.val = k + 1 → ∃ t, exec .ret s = .next t ∧ t.sp.val = k ∧
      t.pc.toNat = (s.stack[k].toNat + 2) % 65536 ∧ t.stack = s.stack ∧ frameStack s t) ∧
    (s.sp.val = 0 → exec .ret s = .fault .stackUnderflow)

/-- R120, R122, the source's example S5: a RET that finds the stack as a CALL left it goes to the instruction after
that CALL and leaves sp as it was before it. -/
def Obligations.ReturnUndoesCall : Prop :=
  ∀ (nnn : Addr) (s : State), s.sp.val < 16 → ∃ t, exec (.call nnn) s = .next t ∧
    ∀ t' : State, sameStack t t' → ∃ u, exec .ret t' = .next u ∧ u.pc = s.pc + 2 ∧ u.sp = s.sp

/-- R123, R124. -/
def Obligations.SkipsOnByte : Prop :=
  ∀ (x : Nibble) (kk : Byte) (s : State),
    decode (0x3#4 ++ x ++ kk) = .ok (.seByte x kk) ∧ decode (0x4#4 ++ x ++ kk) = .ok (.sneByte x kk) ∧
    (∃ t, exec (.seByte x kk) s = .next t ∧ t.pc = (if s.reg x = kk then s.pc + 4 else s.pc + 2) ∧
      sameRegs s t ∧ sameBeyondRegs s t) ∧
    ∃ t, exec (.sneByte x kk) s = .next t ∧ t.pc = (if s.reg x ≠ kk then s.pc + 4 else s.pc + 2) ∧
      sameRegs s t ∧ sameBeyondRegs s t

/-- R125, R126. -/
def Obligations.SkipsOnRegisters : Prop :=
  ∀ (x y : Nibble) (s : State),
    decode (0x5#4 ++ x ++ y ++ 0x0#4) = .ok (.seReg x y) ∧
    decode (0x9#4 ++ x ++ y ++ 0x0#4) = .ok (.sneReg x y) ∧
    (∃ t, exec (.seReg x y) s = .next t ∧ t.pc = (if s.reg x = s.reg y then s.pc + 4 else s.pc + 2) ∧
      sameRegs s t ∧ sameBeyondRegs s t) ∧
    ∃ t, exec (.sneReg x y) s = .next t ∧ t.pc = (if s.reg x ≠ s.reg y then s.pc + 4 else s.pc + 2) ∧
      sameRegs s t ∧ sameBeyondRegs s t

/-! ### Registers and arithmetic -/

/-- R140, R141: VF is not written unless it is V[X]. -/
def Obligations.ByteLoadAndAdd : Prop :=
  ∀ (x : Nibble) (kk : Byte) (s : State),
    decode (0x6#4 ++ x ++ kk) = .ok (.ldByte x kk) ∧ decode (0x7#4 ++ x ++ kk) = .ok (.addByte x kk) ∧
    (∃ t, exec (.ldByte x kk) s = .next t ∧ t.reg x = kk ∧ t.pc = s.pc + 2 ∧ frameReg x s t) ∧
    ∃ t, exec (.addByte x kk) s = .next t ∧ (t.reg x).toNat = ((s.reg x).toNat + kk.toNat) % 256 ∧
      t.pc = s.pc + 2 ∧ frameReg x s t

/-- R142 to R145: bit by bit; VF is not written unless it is V[X]. -/
def Obligations.MoveAndLogic : Prop :=
  ∀ (x y : Nibble) (s : State),
    decode (0x8#4 ++ x ++ y ++ 0x0#4) = .ok (.ldReg x y) ∧
    decode (0x8#4 ++ x ++ y ++ 0x1#4) = .ok (.orReg x y) ∧
    decode (0x8#4 ++ x ++ y ++ 0x2#4) = .ok (.andReg x y) ∧
    decode (0x8#4 ++ x ++ y ++ 0x3#4) = .ok (.xorReg x y) ∧
    (∃ t, exec (.ldReg x y) s = .next t ∧ t.reg x = s.reg y ∧ t.pc = s.pc + 2 ∧ frameReg x s t) ∧
    (∃ t, exec (.orReg x y) s = .next t ∧
      (∀ b, (t.reg x).getLsbD b = ((s.reg x).getLsbD b || (s.reg y).getLsbD b)) ∧
      t.pc = s.pc + 2 ∧ frameReg x s t) ∧
    (∃ t, exec (.andReg x y) s = .next t ∧
      (∀ b, (t.reg x).getLsbD b = ((s.reg x).getLsbD b && (s.reg y).getLsbD b)) ∧
      t.pc = s.pc + 2 ∧ frameReg x s t) ∧
    ∃ t, exec (.xorReg x y) s = .next t ∧
      (∀ b, (t.reg x).getLsbD b = ((s.reg x).getLsbD b ^^ (s.reg y).getLsbD b)) ∧
      t.pc = s.pc + 2 ∧ frameReg x s t

/-- R146: the sum, and the carry in VF, which is what stays when X is 15. -/
def Obligations.AddSetsCarry : Prop :=
  ∀ (x y : Nibble) (s : State), decode (0x8#4 ++ x ++ y ++ 0x4#4) = .ok (.addReg x y) ∧
    ∃ t, exec (.addReg x y) s = .next t ∧
      t.reg 15 = (if (s.reg x).toNat + (s.reg y).toNat > 255 then 1 else 0) ∧
      (x ≠ 15 → (t.reg x).toNat = ((s.reg x).toNat + (s.reg y).toNat) % 256) ∧
      t.pc = s.pc + 2 ∧ frameRegFlag x s t

/-- R147, R149: the difference modulo 256, and in VF whether the minuend is strictly the greater. -/
def Obligations.SubtractSetsNoBorrow : Prop :=
  ∀ (x y : Nibble) (s : State),
    decode (0x8#4 ++ x ++ y ++ 0x5#4) = .ok (.subReg x y) ∧
    decode (0x8#4 ++ x ++ y ++ 0x7#4) = .ok (.subnReg x y) ∧
    (∃ t, exec (.subReg x y) s = .next t ∧
      t.reg 15 = (if (s.reg x).toNat > (s.reg y).toNat then 1 else 0) ∧
      (x ≠ 15 → ((t.reg x).toNat : Int) = ((s.reg x).toNat - (s.reg y).toNat : Int) % 256) ∧
      t.pc = s.pc + 2 ∧ frameRegFlag x s t) ∧
    ∃ t, exec (.subnReg x y) s = .next t ∧
      t.reg 15 = (if (s.reg y).toNat > (s.reg x).toNat then 1 else 0) ∧
      (x ≠ 15 → ((t.reg x).toNat : Int) = ((s.reg y).toNat - (s.reg x).toNat : Int) % 256) ∧
      t.pc = s.pc + 2 ∧ frameRegFlag x s t

/-- R148: SHR, of the register `SHIFT_SRC` names; bit 0 before the shift goes to VF, which stays when X is 15. -/
def Obligations.ShiftRightSetsBitOut : Prop :=
  ∀ (x y : Nibble) (s : State), decode (0x8#4 ++ x ++ y ++ 0x6#4) = .ok (.shr x y) ∧
    ∃ t, exec (.shr x y) s = .next t ∧
      t.reg 15 = BitVec.ofNat 8 ((s.reg (shiftedReg s x y)).toNat % 2) ∧
      (x ≠ 15 → (t.reg x).toNat = (s.reg (shiftedReg s x y)).toNat / 2) ∧
      t.pc = s.pc + 2 ∧ frameRegFlag x s t

/-- R150: SHL, of the register `SHIFT_SRC` names; bit 7 before the shift goes to VF, which stays when X is 15. -/
def Obligations.ShiftLeftSetsBitOut : Prop :=
  ∀ (x y : Nibble) (s : State), decode (0x8#4 ++ x ++ y ++ 0xE#4) = .ok (.shl x y) ∧
    ∃ t, exec (.shl x y) s = .next t ∧
      t.reg 15 = BitVec.ofNat 8 ((s.reg (shiftedReg s x y)).toNat / 128) ∧
      (x ≠ 15 → (t.reg x).toNat = (s.reg (shiftedReg s x y)).toNat * 2 % 256) ∧
      t.pc = s.pc + 2 ∧ frameRegFlag x s t

/-- R151: for every byte the caller supplies; the instruction as `exec` runs it completes with some byte, and takes
a fresh one next time, which is the model's choice (log entry 1). -/
def Obligations.RandomIsMasked : Prop :=
  ∀ (x : Nibble) (kk : Byte) (s : State), decode (0xC#4 ++ x ++ kk) = .ok (.rnd x kk) ∧
    (∀ r : Byte, ∃ t, execWith r (.rnd x kk) s = .next t ∧
      (∀ b, (t.reg x).getLsbD b = (r.getLsbD b && kk.getLsbD b)) ∧ t.pc = s.pc + 2 ∧ frameReg x s t) ∧
    ∃ (t : State) (r : Byte), exec (.rnd x kk) s = .next t ∧
      (∀ b, (t.reg x).getLsbD b = (r.getLsbD b && kk.getLsbD b)) ∧ t.pc = s.pc + 2 ∧ frameReg x s t ∧
      t.rndDraws = s.rndDraws + 1

/-! ### The index register and memory -/

/-- R170, R171, R172. -/
def Obligations.IndexLoads : Prop :=
  ∀ (nnn : Addr) (x : Nibble) (s : State),
    decode (0xA#4 ++ nnn) = .ok (.ldI nnn) ∧ decode (0xF#4 ++ x ++ 0x1E#8) = .ok (.addI x) ∧
    decode (0xF#4 ++ x ++ 0x29#8) = .ok (.ldFont x) ∧
    (∃ t, exec (.ldI nnn) s = .next t ∧ t.i.toNat = nnn.toNat ∧ t.pc = s.pc + 2 ∧ frameIndex s t) ∧
    (∃ t, exec (.addI x) s = .next t ∧ t.i.toNat = (s.i.toNat + (s.reg x).toNat) % 65536 ∧
      t.pc = s.pc + 2 ∧ frameIndex s t) ∧
    ∃ t, exec (.ldFont x) s = .next t ∧ t.i.toNat = 5 * (s.reg x).toNat ∧ t.pc = s.pc + 2 ∧ frameIndex s t

/-- R173: the three digits at I, I + 1, I + 2 and every other byte as before; past 4095, a fault. -/
def Obligations.BcdStoresDigits : Prop :=
  ∀ (x : Nibble) (s : State), decode (0xF#4 ++ x ++ 0x33#8) = .ok (.ldBcd x) ∧
    (s.i.toNat + 2 ≤ 4095 → ∃ t, exec (.ldBcd x) s = .next t ∧
      (∀ a, (t.byte a).toNat =
        if a = s.i.toNat then (s.reg x).toNat / 100
        else if a = s.i.toNat + 1 then (s.reg x).toNat / 10 % 10
        else if a = s.i.toNat + 2 then (s.reg x).toNat % 10
        else (s.byte a).toNat) ∧
      t.pc = s.pc + 2 ∧ frameStore s t) ∧
    (4095 < s.i.toNat + 2 → exec (.ldBcd x) s = .fault (.memBounds (s.i.toNat + 2)))

/-- R174: V[k] at I + k for k up to X and every other byte as before, I unchanged; past 4095, a fault. -/
def Obligations.RegistersAreStored : Prop :=
  ∀ (x : Nibble) (s : State), decode (0xF#4 ++ x ++ 0x55#8) = .ok (.storeRegs x) ∧
    (s.i.toNat + x.toNat ≤ 4095 → ∃ t, exec (.storeRegs x) s = .next t ∧
      (∀ a, t.byte a =
        if s.i.toNat ≤ a ∧ a ≤ s.i.toNat + x.toNat then s.reg (BitVec.ofNat 4 (a - s.i.toNat))
        else s.byte a) ∧
      t.pc = s.pc + 2 ∧ frameStore s t) ∧
    (4095 < s.i.toNat + x.toNat → exec (.storeRegs x) s = .fault (.memBounds (s.i.toNat + x.toNat)))

/-- R175: V[k] from I + k for k up to X and every other register as before, I and memory unchanged; past 4095, a
fault. -/
def Obligations.RegistersAreLoaded : Prop :=
  ∀ (x : Nibble) (s : State), decode (0xF#4 ++ x ++ 0x65#8) = .ok (.loadRegs x) ∧
    (s.i.toNat + x.toNat ≤ 4095 → ∃ t, exec (.loadRegs x) s = .next t ∧
      (∀ r : Nibble, t.reg r =
        if r.toNat ≤ x.toNat then s.byte (s.i.toNat + r.toNat) else s.reg r) ∧
      t.pc = s.pc + 2 ∧ sameBeyondRegs s t) ∧
    (4095 < s.i.toNat + x.toNat → exec (.loadRegs x) s = .fault (.memBounds (s.i.toNat + x.toNat)))

/-- R174, R175: loading what was stored, with I and memory as the store left them, gives V[0] to V[X] back,
whatever the registers hold in between. -/
def Obligations.LoadUndoesStore : Prop :=
  ∀ (x : Nibble) (s t u : State), exec (.storeRegs x) s = .next t → u.i = t.i → sameMem t u →
    ∃ w, exec (.loadRegs x) u = .next w ∧ ∀ r : Nibble, r.toNat ≤ x.toNat → w.reg r = s.reg r

/-- R66: bytes that LD [I],Vx stores at the next pc are what the next fetch reads. -/
def Obligations.StoredBytesAreFetched : Prop :=
  ∀ (x : Nibble) (s t : State) (k : Nat), exec (.storeRegs x) s = .next t → k < x.toNat →
    t.pc.toNat = s.i.toNat + k →
    t.fetch = .ok (s.reg (BitVec.ofNat 4 k) ++ s.reg (BitVec.ofNat 4 (k + 1)))

/-! ### The display -/

/-- R190. -/
def Obligations.ClearTurnsAllPixelsOff : Prop :=
  ∀ s : State, decode 0x00E0#16 = .ok .cls ∧
    ∃ t, exec .cls s = .next t ∧ (∀ x y, t.disp.pixel x y = false) ∧ t.pc = s.pc + 2 ∧ frameClear s t

/-- R191: every pixel is xored with what the sprite puts on it, wrapping on both axes; VF is 1 exactly when some
pixel went from on to off; past 4095, a fault. -/
def Obligations.DrawXorsEveryPixel : Prop :=
  ∀ (x y n : Nibble) (s : State), decode (0xD#4 ++ x ++ y ++ n) = .ok (.drw x y n) ∧
    (n = 0 ∨ s.i.toNat + n.toNat - 1 ≤ 4095 → ∃ t, exec (.drw x y n) s = .next t ∧
      (∀ px py, t.disp.pixel px py =
        (s.disp.pixel px py ^^ spriteOn s.byte s.i.toNat (s.reg x) (s.reg y) n.toNat px py)) ∧
      ((∃ px py, s.disp.pixel px py = true ∧ t.disp.pixel px py = false) → t.reg 15 = 1) ∧
      ((¬ ∃ px py, s.disp.pixel px py = true ∧ t.disp.pixel px py = false) → t.reg 15 = 0) ∧
      t.pc = s.pc + 2 ∧ frameDraw s t) ∧
    (n ≠ 0 → 4095 < s.i.toNat + n.toNat - 1 →
      exec (.drw x y n) s = .fault (.memBounds (s.i.toNat + n.toNat - 1)))

/-- R193: a second draw of the same sprite at the same place restores the display, and its VF is 1 exactly when a 1
bit of the sprite fell on a pixel that was off before the first. -/
def Obligations.SecondDrawRestores : Prop :=
  ∀ (x y n : Nibble) (s t s' : State), exec (.drw x y n) s = .next t →
    samePixels t s' → sameMem s s' → s'.i = s.i → s'.reg x = s.reg x → s'.reg y = s.reg y →
    ∃ u, exec (.drw x y n) s' = .next u ∧ samePixels s u ∧
      (u.reg 15 = 1 ↔ ∃ px py, s.disp.pixel px py = false ∧
        spriteOn s.byte s.i.toNat (s.reg x) (s.reg y) n.toNat px py = true)

/-! ### The keypad and the timers -/

/-- R200, R201. -/
def Obligations.SkipsOnKey : Prop :=
  ∀ (x : Nibble) (s : State),
    decode (0xE#4 ++ x ++ 0x9E#8) = .ok (.skp x) ∧ decode (0xE#4 ++ x ++ 0xA1#8) = .ok (.sknp x) ∧
    (∀ h : (s.reg x).toNat < 16,
      (∃ t, exec (.skp x) s = .next t ∧
        t.pc = (if s.key[(s.reg x).toNat] = true then s.pc + 4 else s.pc + 2) ∧
        sameRegs s t ∧ sameBeyondRegs s t) ∧
      ∃ t, exec (.sknp x) s = .next t ∧
        t.pc = (if s.key[(s.reg x).toNat] = false then s.pc + 4 else s.pc + 2) ∧
        sameRegs s t ∧ sameBeyondRegs s t) ∧
    (15 < (s.reg x).toNat → exec (.skp x) s = .fault (.keyRange (s.reg x)) ∧
      exec (.sknp x) s = .fault (.keyRange (s.reg x)))

/-- R203: with no key latched the step answers OK and changes nothing; with one, it is stored and the latch
cleared. -/
def Obligations.KeyWaitHoldsOrTakes : Prop :=
  ∀ (x : Nibble) (s : State), decode (0xF#4 ++ x ++ 0x0A#8) = .ok (.ldKey x) ∧
    (s.latch = none → exec (.ldKey x) s = .next s) ∧
    ∀ k : Nibble, s.latch = some k → ∃ t, exec (.ldKey x) s = .next t ∧ (t.reg x).toNat = k.toNat ∧
      t.latch = none ∧ t.pc = s.pc + 2 ∧ frameKeyWait x s t

/-- R202, R204, R205. -/
def Obligations.TimerMoves : Prop :=
  ∀ (x : Nibble) (s : State),
    decode (0xF#4 ++ x ++ 0x07#8) = .ok (.ldFromDt x) ∧ decode (0xF#4 ++ x ++ 0x15#8) = .ok (.ldDt x) ∧
    decode (0xF#4 ++ x ++ 0x18#8) = .ok (.ldSt x) ∧
    (∃ t, exec (.ldFromDt x) s = .next t ∧ t.reg x = s.dt ∧ t.pc = s.pc + 2 ∧ frameReg x s t) ∧
    (∃ t, exec (.ldDt x) s = .next t ∧ t.dt = s.reg x ∧ t.st = s.st ∧ t.pc = s.pc + 2 ∧ frameTimer s t) ∧
    ∃ t, exec (.ldSt x) s = .next t ∧ t.st = s.reg x ∧ t.dt = s.dt ∧ t.pc = s.pc + 2 ∧ frameTimer s t

/-! ### What no other instruction touches -/

/-- R22, the column of writes: a register the table does not name is unchanged. -/
def Obligations.RegistersWrittenByTable : Prop :=
  ∀ (i : Instr) (s t : State) (r : Nibble), exec i s = .next t → writesReg i r = false → t.reg r = s.reg r

/-- R37, R52: every byte outside those an instruction stores, from I upward, reads as before. -/
def Obligations.MemoryWrittenByStoresOnly : Prop :=
  ∀ (i : Instr) (s t : State) (a : Nat), exec i s = .next t →
    ¬ (s.i.toNat ≤ a ∧ a < s.i.toNat + bytesStored i) → t.byte a = s.byte a

/-- R26, R27: no instruction but CALL writes a slot, and none but CALL and RET moves sp. -/
def Obligations.StackTouchedByCallAndReturnOnly : Prop :=
  ∀ (i : Instr) (s t : State), exec i s = .next t → (∀ nnn, i ≠ .call nnn) →
    t.stack = s.stack ∧ (i ≠ .ret → t.sp = s.sp)

/-- R23, R28, R37: I is written by LD I, ADD I and LD F alone, the display by CLS and DRW alone. -/
def Obligations.IndexAndDisplayWriters : Prop :=
  ∀ (i : Instr) (s t : State), exec i s = .next t →
    (¬ writesI i → t.i = s.i) ∧ (¬ writesDisplay i → t.disp = s.disp)

/-- R110: no step changes a key flag, none but LD Vx,K the latch, and a timer changes only by being set. -/
def Obligations.KeypadAndTimerWriters : Prop :=
  ∀ (i : Instr) (s t : State), exec i s = .next t →
    t.key = s.key ∧ ((∀ x, i ≠ .ldKey x) → t.latch = s.latch) ∧
    ((∀ x, i ≠ .ldDt x) → t.dt = s.dt) ∧ ((∀ x, i ≠ .ldSt x) → t.st = s.st)

/-! ### The invariant -/

/-- The state after reset has the canonical form of memory, which is the model's choice (log entry 11). -/
def Obligations.ResetHasMemoryForm : Prop := State.reset.Inv

/-- A step keeps the form, from any state that has it. R38's other bounds are in the types of State. The form is the
model's choice (log entry 11). -/
def Obligations.StepKeepsMemoryForm : Prop := ∀ s t : State, s.Inv → step s = .next t → t.Inv

/-- Any sequence of the six operations, in any order (R232), keeps the form. The form is the model's choice (log
entry 11). -/
def Obligations.OperationsKeepMemoryForm : Prop :=
  ∀ (s : State) (ops : List Operation), s.Inv → (runOps s ops).2.Inv

/-- The canonical form is one: two memories that have it and read alike at every address are equal. The form is the
model's choice (log entry 11), so that equal memories are equal data. -/
def Obligations.MemoryFormIsUnique : Prop :=
  ∀ (font : Config.Font) (m m' : Memory), m.wf font → m'.wf font →
    (∀ a, m.read font a = m'.read font a) → m = m'

/-! ### The host's operations -/

/-- R36, R270: RESET, from any state and for any parameters of the machine. -/
def Obligations.ResetGivesTheTable : Prop :=
  ∀ s : State, (operate s .reset).1 = .done ∧
    ∀ t ∈ [State.resetWith s.params, (operate s .reset).2],
      (∀ r, t.reg r = 0) ∧ t.i = 0 ∧ t.pc = 0x200 ∧ (∀ (k : Nat) (h : k < 16), t.stack[k] = 0) ∧
      t.sp.val = 0 ∧ (∀ x y, t.disp.pixel x y = false) ∧ (∀ (k : Nat) (h : k < 16), t.key[k] = false) ∧
      t.latch = none ∧ t.dt = 0 ∧ t.st = 0 ∧
      (∀ (k : Nat) (h : k < 80), t.byte k = s.params.font[k]) ∧
      ∀ a, 80 ≤ a → t.byte a = 0

/-- R272, R273: after RESET and a LOAD that succeeds, the first step fetches the first two bytes of the image, which
lies at 0x200 in order. -/
def Obligations.ImageIsFetchedAfterReset : Prop :=
  ∀ (s : State) (b0 b1 : Byte) (rest : List Byte), (b0 :: b1 :: rest).length ≤ 3584 →
    let t := (runOps s [.reset, .load (b0 :: b1 :: rest)]).2
    t.fetch = .ok (b0 ++ b1) ∧
    ∀ (j : Nat) (h : j < (b0 :: b1 :: rest).length), t.byte (0x200 + j) = (b0 :: b1 :: rest)[j]

/-- R235: LOAD copies the bytes from 0x200 and writes nothing else; a longer image is refused whole. -/
def Obligations.LoadCopiesVerbatim : Prop :=
  ∀ (s : State) (bytes : List Byte),
    (bytes.length ≤ 3584 → ∃ t, operate s (.load bytes) = (.loaded .loadOk, t) ∧
      (∀ a, t.byte a =
        if 0x200 ≤ a then bytes.getD (a - 0x200) (s.byte a) else s.byte a) ∧
      t = { s with mem := t.mem }) ∧
    (3584 < bytes.length → operate s (.load bytes) = (.loaded .loadTooLong, s))

/-- R230: each timer goes down by 1 when above 0, the tone is tested first, and nothing else changes. -/
def Obligations.TickCountsDown : Prop :=
  ∀ s : State, ∃ t, operate s .tick = (.tone (decide (s.st = 1)), t) ∧
    t.dt.toNat = s.dt.toNat - 1 ∧ t.st.toNat = s.st.toNat - 1 ∧ t = { s with dt := t.dt, st := t.st }

/-- R231: of a run of ticks, the one that finds ST = 1 sounds, and no other; both timers stop at 0. -/
def Obligations.ToneSoundsOnLastTick : Prop :=
  ∀ (s : State) (n : Nat),
    (runOps s (List.replicate n .tick)).1 =
      (List.range n).map (fun k => .tone (decide (s.st.toNat = k + 1))) ∧
    (runOps s (List.replicate n .tick)).2.st.toNat = s.st.toNat - n ∧
    (runOps s (List.replicate n .tick)).2.dt.toNat = s.dt.toNat - n

/-- R233: a press sets the flag and the latch, a release clears the flag and leaves the latch. That a symbol above 15
is answered `keyRefused` and changes nothing is the model's choice (log entry 12): R233 says only that a model refuses
it. -/
def Obligations.KeyEventSetsFlagAndLatch : Prop :=
  ∀ (s : State) (k : Nat) (pressed : Bool),
    (k ≤ 15 → ∃ t, operate s (.key k pressed) = (.done, t) ∧
      (∀ (j : Nat) (h : j < 16), t.key[j] = if j = k then pressed else s.key[j]) ∧
      t.latch = (if pressed then some (BitVec.ofNat 4 k) else s.latch) ∧
      t = { s with key := t.key, latch := t.latch }) ∧
    (15 < k → operate s (.key k pressed) = (.keyRefused, s))

/-- R234: 2048 pixels, pixel (x, y) at index y × 64 + x; reading changes nothing. -/
def Obligations.DisplayIsRowMajor : Prop :=
  ∀ s : State, ∃ bits, operate s .display = (.pixels bits, s) ∧ bits.length = 2048 ∧
    ∀ (x : Fin 64) (y : Fin 32), bits[y.val * 64 + x.val]? = some (s.disp.pixel x y)

/-! ### The parameters -/

/-- R8: the open parameters are configuration; no step and no operation changes them. That the model's reset state
has the defaults of R8 is the model's choice (log entries 2, 3, 4), and so is where they stand (log entry 23). -/
def Obligations.ParametersAreFixed : Prop :=
  State.reset = State.resetWith Params.default ∧
    State.reset.params.shiftSrc = .vx ∧ State.reset.params.sysPolicy = .fail ∧
    ∀ s : State, (∀ t, step s = .next t → t.params = s.params) ∧
      ∀ ops : List Operation, (runOps s ops).2.params = s.params
end

