-- ==== Sys2Proof/Laws/Decode.lean ====
section
/-! SUPPORT. What the three masks of R74 test, as arithmetic on the word, and what the field extractors (R72)
read from a word written as its pattern. -/

namespace Sys2Proof

/-! ### The masks -/

theorem toNat_and_F000 (w : Word) : (w &&& 0xF000#16).toNat = w.toNat / 4096 * 4096 := by
  have h : w &&& 0xF000#16 = (w >>> 12) <<< 12 := by
    ext i hi
    simp only [BitVec.getElem_and, BitVec.getElem_shiftLeft]
    interval_cases i <;> simp
  rw [h]
  simp [BitVec.toNat_shiftLeft, Nat.shiftRight_eq_div_pow, Nat.shiftLeft_eq]
  omega

theorem toNat_and_low (w : Word) (k : Nat) : (w &&& BitVec.ofNat 16 (2 ^ k - 1)).toNat = w.toNat % 2 ^ k := by
  rw [BitVec.toNat_and, BitVec.toNat_ofNat]
  rcases Nat.le_total k 16 with hk | hk
  · have : 2 ^ k ≤ 2 ^ 16 := Nat.pow_le_pow_right (by omega) hk
    have : 0 < 2 ^ k := Nat.two_pow_pos k
    rw [Nat.mod_eq_of_lt (show 2 ^ k - 1 < 2 ^ 16 by omega), Nat.and_two_pow_sub_one_eq_mod]
  · have h16 : 2 ^ 16 ≤ 2 ^ k := Nat.pow_le_pow_right (by omega) hk
    have : (2 ^ k - 1) % 2 ^ 16 = 2 ^ 16 - 1 := by
      obtain ⟨j, rfl⟩ := Nat.exists_eq_add_of_le hk
      rw [Nat.pow_add]
      have : 0 < 2 ^ j := Nat.two_pow_pos j
      omega
    rw [this, Nat.and_two_pow_sub_one_eq_mod, Nat.mod_eq_of_lt w.isLt, Nat.mod_eq_of_lt (by omega)]

theorem toNat_and_F00F (w : Word) :
    (w &&& 0xF00F#16).toNat = w.toNat / 4096 * 4096 + w.toNat % 16 := by
  have h : w &&& 0xF00F#16 = (w &&& 0xF000#16) ||| (w &&& BitVec.ofNat 16 (2 ^ 4 - 1)) := by
    rw [← BitVec.and_or_distrib_left]; rfl
  rw [h, BitVec.toNat_or, toNat_and_F000, toNat_and_low]
  have := Nat.shiftLeft_add_eq_or_of_lt (a := w.toNat / 4096) (i := 12) (b := w.toNat % 16) (by omega)
  rw [Nat.shiftLeft_eq] at this
  exact this.symm

theorem toNat_and_F0FF (w : Word) :
    (w &&& 0xF0FF#16).toNat = w.toNat / 4096 * 4096 + w.toNat % 256 := by
  have h : w &&& 0xF0FF#16 = (w &&& 0xF000#16) ||| (w &&& BitVec.ofNat 16 (2 ^ 8 - 1)) := by
    rw [← BitVec.and_or_distrib_left]; rfl
  rw [h, BitVec.toNat_or, toNat_and_F000, toNat_and_low]
  have := Nat.shiftLeft_add_eq_or_of_lt (a := w.toNat / 4096) (i := 12) (b := w.toNat % 256) (by omega)
  rw [Nat.shiftLeft_eq] at this
  exact this.symm

/-- A row of format A, K or D tests the leading nibble. -/
theorem selects_F000 (p : Word) (b : Word → Instr) (w : Word) :
    (OpRow.mk 0xF000#16 p b).selects w = decide (w.toNat / 4096 * 4096 = p.toNat) := by
  rw [Bool.eq_iff_iff, decide_eq_true_iff, ← toNat_and_F000, BitVec.toNat_inj]
  exact beq_iff_eq

/-- A row of format R tests the leading and the last nibble. -/
theorem selects_F00F (p : Word) (b : Word → Instr) (w : Word) :
    (OpRow.mk 0xF00F#16 p b).selects w = decide (w.toNat / 4096 * 4096 + w.toNat % 16 = p.toNat) := by
  rw [Bool.eq_iff_iff, decide_eq_true_iff, ← toNat_and_F00F, BitVec.toNat_inj]
  exact beq_iff_eq

/-- A row of format X tests the leading nibble and the last byte. -/
theorem selects_F0FF (p : Word) (b : Word → Instr) (w : Word) :
    (OpRow.mk 0xF0FF#16 p b).selects w = decide (w.toNat / 4096 * 4096 + w.toNat % 256 = p.toNat) := by
  rw [Bool.eq_iff_iff, decide_eq_true_iff, ← toNat_and_F0FF, BitVec.toNat_inj]
  exact beq_iff_eq

/-- A row of format L tests the whole word. -/
theorem selects_FFFF (p : Word) (b : Word → Instr) (w : Word) :
    (OpRow.mk 0xFFFF#16 p b).selects w = decide (w.toNat = p.toNat) := by
  rw [Bool.eq_iff_iff, decide_eq_true_iff, BitVec.toNat_inj]
  have : w &&& 0xFFFF#16 = w := BitVec.and_allOnes
  simp only [OpRow.selects, this]
  exact beq_iff_eq

/-! ### The value of a pattern -/

theorem toNat_pattern_nnn (op : Nibble) (nnn : Addr) :
    (op ++ nnn : Word).toNat = op.toNat * 4096 + nnn.toNat := by
  rw [BitVec.toNat_append, ← Nat.shiftLeft_add_eq_or_of_lt nnn.isLt, Nat.shiftLeft_eq]

theorem toNat_pattern_xkk (op x : Nibble) (kk : Byte) :
    (op ++ x ++ kk : Word).toNat = op.toNat * 4096 + x.toNat * 256 + kk.toNat := by
  rw [BitVec.toNat_append, ← Nat.shiftLeft_add_eq_or_of_lt kk.isLt, Nat.shiftLeft_eq, BitVec.toNat_append,
    ← Nat.shiftLeft_add_eq_or_of_lt x.isLt, Nat.shiftLeft_eq]
  omega

theorem toNat_pattern_xyn (op x y n : Nibble) :
    (op ++ x ++ y ++ n : Word).toNat = op.toNat * 4096 + x.toNat * 256 + y.toNat * 16 + n.toNat := by
  rw [BitVec.toNat_append, ← Nat.shiftLeft_add_eq_or_of_lt n.isLt, Nat.shiftLeft_eq, BitVec.toNat_append,
    ← Nat.shiftLeft_add_eq_or_of_lt y.isLt, Nat.shiftLeft_eq, BitVec.toNat_append,
    ← Nat.shiftLeft_add_eq_or_of_lt x.isLt, Nat.shiftLeft_eq]
  omega

/-! ### The fields as arithmetic -/

theorem Word.toNat_x (w : Word) : (Word.x w).toNat = w.toNat / 256 % 16 := by
  simp [Word.x, BitVec.extractLsb'_toNat, Nat.shiftRight_eq_div_pow]

theorem Word.toNat_y (w : Word) : (Word.y w).toNat = w.toNat / 16 % 16 := by
  simp [Word.y, BitVec.extractLsb'_toNat, Nat.shiftRight_eq_div_pow]

theorem Word.toNat_n (w : Word) : (Word.n w).toNat = w.toNat % 16 := by
  simp [Word.n, BitVec.extractLsb'_toNat]

theorem Word.toNat_kk (w : Word) : (Word.kk w).toNat = w.toNat % 256 := by
  simp [Word.kk, BitVec.extractLsb'_toNat]

theorem Word.toNat_nnn (w : Word) : (Word.nnn w).toNat = w.toNat % 4096 := by
  simp [Word.nnn, BitVec.extractLsb'_toNat]

/-! ### The fields of a pattern -/

theorem Word.nnn_pattern (op : Nibble) (nnn : Addr) : Word.nnn (op ++ nnn) = nnn := by
  rw [← BitVec.toNat_inj, Word.toNat_nnn, toNat_pattern_nnn]; omega

theorem Word.x_pattern_xkk (op x : Nibble) (kk : Byte) : Word.x (op ++ x ++ kk) = x := by
  rw [← BitVec.toNat_inj, Word.toNat_x, toNat_pattern_xkk]; omega

theorem Word.kk_pattern_xkk (op x : Nibble) (kk : Byte) : Word.kk (op ++ x ++ kk) = kk := by
  rw [← BitVec.toNat_inj, Word.toNat_kk, toNat_pattern_xkk]; omega

theorem Word.x_pattern_xyn (op x y n : Nibble) : Word.x (op ++ x ++ y ++ n) = x := by
  rw [← BitVec.toNat_inj, Word.toNat_x, toNat_pattern_xyn]; omega

theorem Word.y_pattern_xyn (op x y n : Nibble) : Word.y (op ++ x ++ y ++ n) = y := by
  rw [← BitVec.toNat_inj, Word.toNat_y, toNat_pattern_xyn]; omega

theorem Word.n_pattern_xyn (op x y n : Nibble) : Word.n (op ++ x ++ y ++ n) = n := by
  rw [← BitVec.toNat_inj, Word.toNat_n, toNat_pattern_xyn]; omega

/-! ### The check of a word, as arithmetic -/

theorem fCodes_contains (kk : Byte) :
    fCodes.contains kk = true ↔ kk.toNat ∈ [0x07, 0x0A, 0x15, 0x18, 0x1E, 0x29, 0x33, 0x55, 0x65] := by
  revert kk
  decide

/-- The table of R78, nibble by nibble. -/
theorem wellFormedWord_iff (w : Word) : wellFormedWord w = true ↔
    (w.toNat / 4096 = 0 → w.toNat = 0x00E0 ∨ w.toNat = 0x00EE) ∧
    (w.toNat / 4096 = 5 ∨ w.toNat / 4096 = 9 → w.toNat % 16 = 0) ∧
    (w.toNat / 4096 = 8 → w.toNat % 16 ≤ 7 ∨ w.toNat % 16 = 14) ∧
    (w.toNat / 4096 = 14 → w.toNat % 256 = 0x9E ∨ w.toNat % 256 = 0xA1) ∧
    (w.toNat / 4096 = 15 → w.toNat % 256 ∈ [0x07, 0x0A, 0x15, 0x18, 0x1E, 0x29, 0x33, 0x55, 0x65]) := by
  have hb : ∀ k, BitVec.ofNat 8 (w.toNat % 256) = BitVec.ofNat 8 k ↔ w.toNat % 256 = k % 256 := by
    intro k
    rw [← BitVec.toNat_inj]
    simp
  have hw : ∀ k, w = BitVec.ofNat 16 k ↔ w.toNat = k % 65536 := by
    intro k
    rw [← BitVec.toNat_inj]
    simp
  have hf := fCodes_contains (BitVec.ofNat 8 (w.toNat % 256))
  simp only [BitVec.toNat_ofNat, show w.toNat % 256 % 2 ^ 8 = w.toNat % 256 by omega] at hf
  unfold wellFormedWord
  simp only [BitVec.ofNat_eq_ofNat, hb, hw]
  repeat' split
  all_goals first
    | (rw [hf]
       exact ⟨fun h => ⟨by omega, by omega, by omega, by omega, fun _ => h⟩, fun h => h.2.2.2.2 (by assumption)⟩)
    | (simp; omega)

/-! ### Which group of rows can select a word -/

/-- Only the two literals select a row of format L. -/
theorem find_rowsL_none {w : Word} (h0 : w.toNat ≠ 0x00E0) (h1 : w.toNat ≠ 0x00EE) :
    rowsL.find? (fun r => r.selects w) = none := by
  simp [rowsL, selects_FFFF, h0, h1]

/-- A row of format X has the leading nibble E or F. -/
theorem find_rowsX_none {w : Word} (h : w.toNat / 4096 < 14) :
    rowsX.find? (fun r => r.selects w) = none := by
  simp only [rowsX, List.find?_eq_none, List.forall_mem_cons, selects_F0FF, decide_eq_true_eq,
    BitVec.toNat_ofNat]
  refine ⟨?_, ?_, ?_, ?_, ?_, ?_, ?_, ?_, ?_, ?_, ?_, fun _ h => nomatch h⟩ <;> omega

/-- A row of format R has the leading nibble 5, 8 or 9. -/
theorem find_rowsR_none {w : Word} (h5 : w.toNat / 4096 ≠ 5) (h8 : w.toNat / 4096 ≠ 8)
    (h9 : w.toNat / 4096 ≠ 9) : rowsR.find? (fun r => r.selects w) = none := by
  simp only [rowsR, List.find?_eq_none, List.forall_mem_cons, selects_F00F, decide_eq_true_eq,
    BitVec.toNat_ofNat]
  refine ⟨?_, ?_, ?_, ?_, ?_, ?_, ?_, ?_, ?_, ?_, ?_, fun _ h => nomatch h⟩ <;> omega

/-- No row of formats A, K and D has the leading nibble 0, 5, 8, 9, E or F. -/
theorem find_rowsAKD_none {w : Word} (h : w.toNat / 4096 = 0 ∨ w.toNat / 4096 = 5 ∨ w.toNat / 4096 = 8 ∨
    w.toNat / 4096 = 9 ∨ 14 ≤ w.toNat / 4096) : rowsAKD.find? (fun r => r.selects w) = none := by
  simp only [rowsAKD, List.find?_eq_none, List.forall_mem_cons, selects_F000, decide_eq_true_eq,
    BitVec.toNat_ofNat]
  refine ⟨?_, ?_, ?_, ?_, ?_, ?_, ?_, ?_, ?_, ?_, fun _ h => nomatch h⟩ <;> omega

/-- The decoder looks through the four groups in order (R74). -/
theorem find_opTable (w : Word) :
    opTable.find? (fun r => r.selects w) =
      (((rowsL.find? fun r => r.selects w).or (rowsX.find? fun r => r.selects w)).or
        (rowsR.find? fun r => r.selects w)).or (rowsAKD.find? fun r => r.selects w) := by
  rw [opTable, List.find?_append, List.find?_append, List.find?_append]

/-- A word decodes to what the first row it selects builds. -/
theorem decode_of_find {w : Word} {r : OpRow} (h : opTable.find? (fun r => r.selects w) = some r) :
    decode w = .ok (r.build w) := by
  rw [decode, decodeBy, h]

/-- A word that selects no row is unrecognised (R78). -/
theorem decode_of_none {w : Word} (h : opTable.find? (fun r => r.selects w) = none) :
    decode w = .error (.unrecognised w) := by
  rw [decode, decodeBy, h]

end Sys2Proof
end

