-- ==== Sys2Proof/Laws/State.lean ====
section
/-! SUPPORT. What each update of the state does to each field, one lemma each, so that no proof unfolds a record
update. -/

namespace Sys2Proof.Machine

/-! ### setReg -/

@[simp] theorem State.setReg_v (s : State) (x : Nibble) (b : Byte) : (s.setReg x b).v = s.v.set x.toNat b x.isLt := rfl
@[simp] theorem State.setReg_i (s : State) (x : Nibble) (b : Byte) : (s.setReg x b).i = s.i := rfl
@[simp] theorem State.setReg_pc (s : State) (x : Nibble) (b : Byte) : (s.setReg x b).pc = s.pc := rfl
@[simp] theorem State.setReg_stack (s : State) (x : Nibble) (b : Byte) : (s.setReg x b).stack = s.stack := rfl
@[simp] theorem State.setReg_sp (s : State) (x : Nibble) (b : Byte) : (s.setReg x b).sp = s.sp := rfl
@[simp] theorem State.setReg_disp (s : State) (x : Nibble) (b : Byte) : (s.setReg x b).disp = s.disp := rfl
@[simp] theorem State.setReg_key (s : State) (x : Nibble) (b : Byte) : (s.setReg x b).key = s.key := rfl
@[simp] theorem State.setReg_latch (s : State) (x : Nibble) (b : Byte) : (s.setReg x b).latch = s.latch := rfl
@[simp] theorem State.setReg_dt (s : State) (x : Nibble) (b : Byte) : (s.setReg x b).dt = s.dt := rfl
@[simp] theorem State.setReg_st (s : State) (x : Nibble) (b : Byte) : (s.setReg x b).st = s.st := rfl
@[simp] theorem State.setReg_mem (s : State) (x : Nibble) (b : Byte) : (s.setReg x b).mem = s.mem := rfl
@[simp] theorem State.setReg_params (s : State) (x : Nibble) (b : Byte) : (s.setReg x b).params = s.params := rfl
@[simp] theorem State.setReg_rndDraws (s : State) (x : Nibble) (b : Byte) : (s.setReg x b).rndDraws = s.rndDraws := rfl

/-! ### setRegFlag -/

@[simp] theorem State.setRegFlag_v (s : State) (x : Nibble) (b f : Byte) : (s.setRegFlag x b f).v = (s.v.set x.toNat b x.isLt).set 15 f := rfl
@[simp] theorem State.setRegFlag_i (s : State) (x : Nibble) (b f : Byte) : (s.setRegFlag x b f).i = s.i := rfl
@[simp] theorem State.setRegFlag_pc (s : State) (x : Nibble) (b f : Byte) : (s.setRegFlag x b f).pc = s.pc := rfl
@[simp] theorem State.setRegFlag_stack (s : State) (x : Nibble) (b f : Byte) : (s.setRegFlag x b f).stack = s.stack := rfl
@[simp] theorem State.setRegFlag_sp (s : State) (x : Nibble) (b f : Byte) : (s.setRegFlag x b f).sp = s.sp := rfl
@[simp] theorem State.setRegFlag_disp (s : State) (x : Nibble) (b f : Byte) : (s.setRegFlag x b f).disp = s.disp := rfl
@[simp] theorem State.setRegFlag_key (s : State) (x : Nibble) (b f : Byte) : (s.setRegFlag x b f).key = s.key := rfl
@[simp] theorem State.setRegFlag_latch (s : State) (x : Nibble) (b f : Byte) : (s.setRegFlag x b f).latch = s.latch := rfl
@[simp] theorem State.setRegFlag_dt (s : State) (x : Nibble) (b f : Byte) : (s.setRegFlag x b f).dt = s.dt := rfl
@[simp] theorem State.setRegFlag_st (s : State) (x : Nibble) (b f : Byte) : (s.setRegFlag x b f).st = s.st := rfl
@[simp] theorem State.setRegFlag_mem (s : State) (x : Nibble) (b f : Byte) : (s.setRegFlag x b f).mem = s.mem := rfl
@[simp] theorem State.setRegFlag_params (s : State) (x : Nibble) (b f : Byte) : (s.setRegFlag x b f).params = s.params := rfl
@[simp] theorem State.setRegFlag_rndDraws (s : State) (x : Nibble) (b f : Byte) : (s.setRegFlag x b f).rndDraws = s.rndDraws := rfl

/-! ### setI -/

@[simp] theorem State.setI_v (s : State) (w : Word) : (s.setI w).v = s.v := rfl
@[simp] theorem State.setI_i (s : State) (w : Word) : (s.setI w).i = w := rfl
@[simp] theorem State.setI_pc (s : State) (w : Word) : (s.setI w).pc = s.pc := rfl
@[simp] theorem State.setI_stack (s : State) (w : Word) : (s.setI w).stack = s.stack := rfl
@[simp] theorem State.setI_sp (s : State) (w : Word) : (s.setI w).sp = s.sp := rfl
@[simp] theorem State.setI_disp (s : State) (w : Word) : (s.setI w).disp = s.disp := rfl
@[simp] theorem State.setI_key (s : State) (w : Word) : (s.setI w).key = s.key := rfl
@[simp] theorem State.setI_latch (s : State) (w : Word) : (s.setI w).latch = s.latch := rfl
@[simp] theorem State.setI_dt (s : State) (w : Word) : (s.setI w).dt = s.dt := rfl
@[simp] theorem State.setI_st (s : State) (w : Word) : (s.setI w).st = s.st := rfl
@[simp] theorem State.setI_mem (s : State) (w : Word) : (s.setI w).mem = s.mem := rfl
@[simp] theorem State.setI_params (s : State) (w : Word) : (s.setI w).params = s.params := rfl
@[simp] theorem State.setI_rndDraws (s : State) (w : Word) : (s.setI w).rndDraws = s.rndDraws := rfl

/-! ### jump -/

@[simp] theorem State.jump_v (s : State) (w : Word) : (s.jump w).v = s.v := rfl
@[simp] theorem State.jump_i (s : State) (w : Word) : (s.jump w).i = s.i := rfl
@[simp] theorem State.jump_pc (s : State) (w : Word) : (s.jump w).pc = w := rfl
@[simp] theorem State.jump_stack (s : State) (w : Word) : (s.jump w).stack = s.stack := rfl
@[simp] theorem State.jump_sp (s : State) (w : Word) : (s.jump w).sp = s.sp := rfl
@[simp] theorem State.jump_disp (s : State) (w : Word) : (s.jump w).disp = s.disp := rfl
@[simp] theorem State.jump_key (s : State) (w : Word) : (s.jump w).key = s.key := rfl
@[simp] theorem State.jump_latch (s : State) (w : Word) : (s.jump w).latch = s.latch := rfl
@[simp] theorem State.jump_dt (s : State) (w : Word) : (s.jump w).dt = s.dt := rfl
@[simp] theorem State.jump_st (s : State) (w : Word) : (s.jump w).st = s.st := rfl
@[simp] theorem State.jump_mem (s : State) (w : Word) : (s.jump w).mem = s.mem := rfl
@[simp] theorem State.jump_params (s : State) (w : Word) : (s.jump w).params = s.params := rfl
@[simp] theorem State.jump_rndDraws (s : State) (w : Word) : (s.jump w).rndDraws = s.rndDraws := rfl

/-! ### advance -/

@[simp] theorem State.advance_v (s : State) (n : Word) : (s.advance n).v = s.v := rfl
@[simp] theorem State.advance_i (s : State) (n : Word) : (s.advance n).i = s.i := rfl
@[simp] theorem State.advance_pc (s : State) (n : Word) : (s.advance n).pc = s.pc + n := rfl
@[simp] theorem State.advance_stack (s : State) (n : Word) : (s.advance n).stack = s.stack := rfl
@[simp] theorem State.advance_sp (s : State) (n : Word) : (s.advance n).sp = s.sp := rfl
@[simp] theorem State.advance_disp (s : State) (n : Word) : (s.advance n).disp = s.disp := rfl
@[simp] theorem State.advance_key (s : State) (n : Word) : (s.advance n).key = s.key := rfl
@[simp] theorem State.advance_latch (s : State) (n : Word) : (s.advance n).latch = s.latch := rfl
@[simp] theorem State.advance_dt (s : State) (n : Word) : (s.advance n).dt = s.dt := rfl
@[simp] theorem State.advance_st (s : State) (n : Word) : (s.advance n).st = s.st := rfl
@[simp] theorem State.advance_mem (s : State) (n : Word) : (s.advance n).mem = s.mem := rfl
@[simp] theorem State.advance_params (s : State) (n : Word) : (s.advance n).params = s.params := rfl
@[simp] theorem State.advance_rndDraws (s : State) (n : Word) : (s.advance n).rndDraws = s.rndDraws := rfl

/-! ### skipIf -/

@[simp] theorem State.skipIf_v (s : State) (c : Bool) : (s.skipIf c).v = s.v := rfl
@[simp] theorem State.skipIf_i (s : State) (c : Bool) : (s.skipIf c).i = s.i := rfl
@[simp] theorem State.skipIf_pc (s : State) (c : Bool) : (s.skipIf c).pc = s.pc + (if c then 4 else 2) := rfl
@[simp] theorem State.skipIf_stack (s : State) (c : Bool) : (s.skipIf c).stack = s.stack := rfl
@[simp] theorem State.skipIf_sp (s : State) (c : Bool) : (s.skipIf c).sp = s.sp := rfl
@[simp] theorem State.skipIf_disp (s : State) (c : Bool) : (s.skipIf c).disp = s.disp := rfl
@[simp] theorem State.skipIf_key (s : State) (c : Bool) : (s.skipIf c).key = s.key := rfl
@[simp] theorem State.skipIf_latch (s : State) (c : Bool) : (s.skipIf c).latch = s.latch := rfl
@[simp] theorem State.skipIf_dt (s : State) (c : Bool) : (s.skipIf c).dt = s.dt := rfl
@[simp] theorem State.skipIf_st (s : State) (c : Bool) : (s.skipIf c).st = s.st := rfl
@[simp] theorem State.skipIf_mem (s : State) (c : Bool) : (s.skipIf c).mem = s.mem := rfl
@[simp] theorem State.skipIf_params (s : State) (c : Bool) : (s.skipIf c).params = s.params := rfl
@[simp] theorem State.skipIf_rndDraws (s : State) (c : Bool) : (s.skipIf c).rndDraws = s.rndDraws := rfl

/-! ### setDt -/

@[simp] theorem State.setDt_v (s : State) (b : Byte) : (s.setDt b).v = s.v := rfl
@[simp] theorem State.setDt_i (s : State) (b : Byte) : (s.setDt b).i = s.i := rfl
@[simp] theorem State.setDt_pc (s : State) (b : Byte) : (s.setDt b).pc = s.pc := rfl
@[simp] theorem State.setDt_stack (s : State) (b : Byte) : (s.setDt b).stack = s.stack := rfl
@[simp] theorem State.setDt_sp (s : State) (b : Byte) : (s.setDt b).sp = s.sp := rfl
@[simp] theorem State.setDt_disp (s : State) (b : Byte) : (s.setDt b).disp = s.disp := rfl
@[simp] theorem State.setDt_key (s : State) (b : Byte) : (s.setDt b).key = s.key := rfl
@[simp] theorem State.setDt_latch (s : State) (b : Byte) : (s.setDt b).latch = s.latch := rfl
@[simp] theorem State.setDt_dt (s : State) (b : Byte) : (s.setDt b).dt = b := rfl
@[simp] theorem State.setDt_st (s : State) (b : Byte) : (s.setDt b).st = s.st := rfl
@[simp] theorem State.setDt_mem (s : State) (b : Byte) : (s.setDt b).mem = s.mem := rfl
@[simp] theorem State.setDt_params (s : State) (b : Byte) : (s.setDt b).params = s.params := rfl
@[simp] theorem State.setDt_rndDraws (s : State) (b : Byte) : (s.setDt b).rndDraws = s.rndDraws := rfl

/-! ### setSt -/

@[simp] theorem State.setSt_v (s : State) (b : Byte) : (s.setSt b).v = s.v := rfl
@[simp] theorem State.setSt_i (s : State) (b : Byte) : (s.setSt b).i = s.i := rfl
@[simp] theorem State.setSt_pc (s : State) (b : Byte) : (s.setSt b).pc = s.pc := rfl
@[simp] theorem State.setSt_stack (s : State) (b : Byte) : (s.setSt b).stack = s.stack := rfl
@[simp] theorem State.setSt_sp (s : State) (b : Byte) : (s.setSt b).sp = s.sp := rfl
@[simp] theorem State.setSt_disp (s : State) (b : Byte) : (s.setSt b).disp = s.disp := rfl
@[simp] theorem State.setSt_key (s : State) (b : Byte) : (s.setSt b).key = s.key := rfl
@[simp] theorem State.setSt_latch (s : State) (b : Byte) : (s.setSt b).latch = s.latch := rfl
@[simp] theorem State.setSt_dt (s : State) (b : Byte) : (s.setSt b).dt = s.dt := rfl
@[simp] theorem State.setSt_st (s : State) (b : Byte) : (s.setSt b).st = b := rfl
@[simp] theorem State.setSt_mem (s : State) (b : Byte) : (s.setSt b).mem = s.mem := rfl
@[simp] theorem State.setSt_params (s : State) (b : Byte) : (s.setSt b).params = s.params := rfl
@[simp] theorem State.setSt_rndDraws (s : State) (b : Byte) : (s.setSt b).rndDraws = s.rndDraws := rfl

/-! ### setLatch -/

@[simp] theorem State.setLatch_v (s : State) (l : Option Nibble) : (s.setLatch l).v = s.v := rfl
@[simp] theorem State.setLatch_i (s : State) (l : Option Nibble) : (s.setLatch l).i = s.i := rfl
@[simp] theorem State.setLatch_pc (s : State) (l : Option Nibble) : (s.setLatch l).pc = s.pc := rfl
@[simp] theorem State.setLatch_stack (s : State) (l : Option Nibble) : (s.setLatch l).stack = s.stack := rfl
@[simp] theorem State.setLatch_sp (s : State) (l : Option Nibble) : (s.setLatch l).sp = s.sp := rfl
@[simp] theorem State.setLatch_disp (s : State) (l : Option Nibble) : (s.setLatch l).disp = s.disp := rfl
@[simp] theorem State.setLatch_key (s : State) (l : Option Nibble) : (s.setLatch l).key = s.key := rfl
@[simp] theorem State.setLatch_latch (s : State) (l : Option Nibble) : (s.setLatch l).latch = l := rfl
@[simp] theorem State.setLatch_dt (s : State) (l : Option Nibble) : (s.setLatch l).dt = s.dt := rfl
@[simp] theorem State.setLatch_st (s : State) (l : Option Nibble) : (s.setLatch l).st = s.st := rfl
@[simp] theorem State.setLatch_mem (s : State) (l : Option Nibble) : (s.setLatch l).mem = s.mem := rfl
@[simp] theorem State.setLatch_params (s : State) (l : Option Nibble) : (s.setLatch l).params = s.params := rfl
@[simp] theorem State.setLatch_rndDraws (s : State) (l : Option Nibble) : (s.setLatch l).rndDraws = s.rndDraws := rfl

/-! ### setDisp -/

@[simp] theorem State.setDisp_v (s : State) (d : Display) : (s.setDisp d).v = s.v := rfl
@[simp] theorem State.setDisp_i (s : State) (d : Display) : (s.setDisp d).i = s.i := rfl
@[simp] theorem State.setDisp_pc (s : State) (d : Display) : (s.setDisp d).pc = s.pc := rfl
@[simp] theorem State.setDisp_stack (s : State) (d : Display) : (s.setDisp d).stack = s.stack := rfl
@[simp] theorem State.setDisp_sp (s : State) (d : Display) : (s.setDisp d).sp = s.sp := rfl
@[simp] theorem State.setDisp_disp (s : State) (d : Display) : (s.setDisp d).disp = d := rfl
@[simp] theorem State.setDisp_key (s : State) (d : Display) : (s.setDisp d).key = s.key := rfl
@[simp] theorem State.setDisp_latch (s : State) (d : Display) : (s.setDisp d).latch = s.latch := rfl
@[simp] theorem State.setDisp_dt (s : State) (d : Display) : (s.setDisp d).dt = s.dt := rfl
@[simp] theorem State.setDisp_st (s : State) (d : Display) : (s.setDisp d).st = s.st := rfl
@[simp] theorem State.setDisp_mem (s : State) (d : Display) : (s.setDisp d).mem = s.mem := rfl
@[simp] theorem State.setDisp_params (s : State) (d : Display) : (s.setDisp d).params = s.params := rfl
@[simp] theorem State.setDisp_rndDraws (s : State) (d : Display) : (s.setDisp d).rndDraws = s.rndDraws := rfl

/-! ### setMem -/

@[simp] theorem State.setMem_v (s : State) (m : Memory) : (s.setMem m).v = s.v := rfl
@[simp] theorem State.setMem_i (s : State) (m : Memory) : (s.setMem m).i = s.i := rfl
@[simp] theorem State.setMem_pc (s : State) (m : Memory) : (s.setMem m).pc = s.pc := rfl
@[simp] theorem State.setMem_stack (s : State) (m : Memory) : (s.setMem m).stack = s.stack := rfl
@[simp] theorem State.setMem_sp (s : State) (m : Memory) : (s.setMem m).sp = s.sp := rfl
@[simp] theorem State.setMem_disp (s : State) (m : Memory) : (s.setMem m).disp = s.disp := rfl
@[simp] theorem State.setMem_key (s : State) (m : Memory) : (s.setMem m).key = s.key := rfl
@[simp] theorem State.setMem_latch (s : State) (m : Memory) : (s.setMem m).latch = s.latch := rfl
@[simp] theorem State.setMem_dt (s : State) (m : Memory) : (s.setMem m).dt = s.dt := rfl
@[simp] theorem State.setMem_st (s : State) (m : Memory) : (s.setMem m).st = s.st := rfl
@[simp] theorem State.setMem_mem (s : State) (m : Memory) : (s.setMem m).mem = m := rfl
@[simp] theorem State.setMem_params (s : State) (m : Memory) : (s.setMem m).params = s.params := rfl
@[simp] theorem State.setMem_rndDraws (s : State) (m : Memory) : (s.setMem m).rndDraws = s.rndDraws := rfl

/-! ### storeBytes -/

@[simp] theorem State.storeBytes_v (s : State) (a : Nat) (bs : List Byte) : (s.storeBytes a bs).v = s.v := rfl
@[simp] theorem State.storeBytes_i (s : State) (a : Nat) (bs : List Byte) : (s.storeBytes a bs).i = s.i := rfl
@[simp] theorem State.storeBytes_pc (s : State) (a : Nat) (bs : List Byte) : (s.storeBytes a bs).pc = s.pc := rfl
@[simp] theorem State.storeBytes_stack (s : State) (a : Nat) (bs : List Byte) : (s.storeBytes a bs).stack = s.stack := rfl
@[simp] theorem State.storeBytes_sp (s : State) (a : Nat) (bs : List Byte) : (s.storeBytes a bs).sp = s.sp := rfl
@[simp] theorem State.storeBytes_disp (s : State) (a : Nat) (bs : List Byte) : (s.storeBytes a bs).disp = s.disp := rfl
@[simp] theorem State.storeBytes_key (s : State) (a : Nat) (bs : List Byte) : (s.storeBytes a bs).key = s.key := rfl
@[simp] theorem State.storeBytes_latch (s : State) (a : Nat) (bs : List Byte) : (s.storeBytes a bs).latch = s.latch := rfl
@[simp] theorem State.storeBytes_dt (s : State) (a : Nat) (bs : List Byte) : (s.storeBytes a bs).dt = s.dt := rfl
@[simp] theorem State.storeBytes_st (s : State) (a : Nat) (bs : List Byte) : (s.storeBytes a bs).st = s.st := rfl
@[simp] theorem State.storeBytes_mem (s : State) (a : Nat) (bs : List Byte) : (s.storeBytes a bs).mem =
    s.mem.writeBytes s.params.font a bs := rfl
@[simp] theorem State.storeBytes_params (s : State) (a : Nat) (bs : List Byte) : (s.storeBytes a bs).params = s.params := rfl
@[simp] theorem State.storeBytes_rndDraws (s : State) (a : Nat) (bs : List Byte) : (s.storeBytes a bs).rndDraws = s.rndDraws := rfl

/-! ### countDraw -/

@[simp] theorem State.countDraw_v (s : State) : s.countDraw.v = s.v := rfl
@[simp] theorem State.countDraw_i (s : State) : s.countDraw.i = s.i := rfl
@[simp] theorem State.countDraw_pc (s : State) : s.countDraw.pc = s.pc := rfl
@[simp] theorem State.countDraw_stack (s : State) : s.countDraw.stack = s.stack := rfl
@[simp] theorem State.countDraw_sp (s : State) : s.countDraw.sp = s.sp := rfl
@[simp] theorem State.countDraw_disp (s : State) : s.countDraw.disp = s.disp := rfl
@[simp] theorem State.countDraw_key (s : State) : s.countDraw.key = s.key := rfl
@[simp] theorem State.countDraw_latch (s : State) : s.countDraw.latch = s.latch := rfl
@[simp] theorem State.countDraw_dt (s : State) : s.countDraw.dt = s.dt := rfl
@[simp] theorem State.countDraw_st (s : State) : s.countDraw.st = s.st := rfl
@[simp] theorem State.countDraw_mem (s : State) : s.countDraw.mem = s.mem := rfl
@[simp] theorem State.countDraw_params (s : State) : s.countDraw.params = s.params := rfl
@[simp] theorem State.countDraw_rndDraws (s : State) : s.countDraw.rndDraws = s.rndDraws + 1 := rfl

/-! ### A byte of memory -/

@[simp] theorem State.byte_setReg (s : State) (x : Nibble) (b : Byte) (k : Nat) : (s.setReg x b).byte k = s.byte k := rfl
@[simp] theorem State.byte_setRegFlag (s : State) (x : Nibble) (b f : Byte) (k : Nat) : (s.setRegFlag x b f).byte k = s.byte k := rfl
@[simp] theorem State.byte_setI (s : State) (w : Word) (k : Nat) : (s.setI w).byte k = s.byte k := rfl
@[simp] theorem State.byte_jump (s : State) (w : Word) (k : Nat) : (s.jump w).byte k = s.byte k := rfl
@[simp] theorem State.byte_advance (s : State) (n : Word) (k : Nat) : (s.advance n).byte k = s.byte k := rfl
@[simp] theorem State.byte_skipIf (s : State) (c : Bool) (k : Nat) : (s.skipIf c).byte k = s.byte k := rfl
@[simp] theorem State.byte_setDt (s : State) (b : Byte) (k : Nat) : (s.setDt b).byte k = s.byte k := rfl
@[simp] theorem State.byte_setSt (s : State) (b : Byte) (k : Nat) : (s.setSt b).byte k = s.byte k := rfl
@[simp] theorem State.byte_setLatch (s : State) (l : Option Nibble) (k : Nat) : (s.setLatch l).byte k = s.byte k := rfl
@[simp] theorem State.byte_setDisp (s : State) (d : Display) (k : Nat) : (s.setDisp d).byte k = s.byte k := rfl
@[simp] theorem State.byte_countDraw (s : State) (k : Nat) : s.countDraw.byte k = s.byte k := rfl

end Sys2Proof.Machine
end

