-- ==== Sys2Proof/Laws/Ops.lean ====
section
/-! SUPPORT. What each shared operation over registers, stack, bounds and flags can do, said once. -/

namespace Sys2Proof.Machine

/-! ### Registers -/

theorem State.reg_eq_of_v {s t : State} (h : t.v = s.v) (r : Nibble) : t.reg r = s.reg r := by
  simp only [State.reg, h]

theorem State.byte_eq_of_mem {s t : State} (hm : t.mem = s.mem) (hp : t.params = s.params) (a : Nat) :
    t.byte a = s.byte a := by
  simp only [State.byte, hm, hp]

@[simp] theorem State.reg_setReg (s : State) (x r : Nibble) (b : Byte) :
    (s.setReg x b).reg r = if r = x then b else s.reg r := by
  simp only [State.reg, State.setReg_v, Vector.getElem_set, BitVec.toNat_inj, eq_comm]

@[simp] theorem State.reg_setRegFlag (s : State) (x r : Nibble) (b f : Byte) :
    (s.setRegFlag x b f).reg r = if r = 15 then f else if r = x then b else s.reg r := by
  simp only [State.setRegFlag, State.reg_setReg]

@[simp] theorem State.reg_setI (s : State) (w : Word) (r : Nibble) : (s.setI w).reg r = s.reg r := rfl
@[simp] theorem State.reg_jump (s : State) (w : Word) (r : Nibble) : (s.jump w).reg r = s.reg r := rfl
@[simp] theorem State.reg_advance (s : State) (n : Word) (r : Nibble) : (s.advance n).reg r = s.reg r := rfl
@[simp] theorem State.reg_skipIf (s : State) (c : Bool) (r : Nibble) : (s.skipIf c).reg r = s.reg r := rfl
@[simp] theorem State.reg_setDt (s : State) (b : Byte) (r : Nibble) : (s.setDt b).reg r = s.reg r := rfl
@[simp] theorem State.reg_setSt (s : State) (b : Byte) (r : Nibble) : (s.setSt b).reg r = s.reg r := rfl
@[simp] theorem State.reg_setLatch (s : State) (l : Option Nibble) (r : Nibble) :
    (s.setLatch l).reg r = s.reg r := rfl
@[simp] theorem State.reg_setDisp (s : State) (d : Display) (r : Nibble) : (s.setDisp d).reg r = s.reg r := rfl
@[simp] theorem State.reg_setMem (s : State) (m : Memory) (r : Nibble) : (s.setMem m).reg r = s.reg r := rfl
@[simp] theorem State.reg_storeBytes (s : State) (a : Nat) (bs : List Byte) (r : Nibble) :
    (s.storeBytes a bs).reg r = s.reg r := rfl
@[simp] theorem State.reg_countDraw (s : State) (r : Nibble) : s.countDraw.reg r = s.reg r := rfl

/-! ### Loading registers from memory -/

/-- Filling registers changes nothing but the registers. -/
theorem State.fillRegs_eq (s : State) (bytes : Nat → Byte) (a n : Nat) :
    s.fillRegs bytes a n = { s with v := (s.fillRegs bytes a n).v } := by
  induction n with
  | zero => rfl
  | succ n ih =>
    simp only [State.fillRegs]
    rw [ih]
    rfl

/-- After filling `n` registers, the first `n` hold the bytes and the others are as they were. -/
theorem State.reg_fillRegs (s : State) (bytes : Nat → Byte) (a n : Nat) (hn : n ≤ 16) (r : Nibble) :
    (s.fillRegs bytes a n).reg r = if r.toNat < n then bytes (a + r.toNat) else s.reg r := by
  induction n with
  | zero => rfl
  | succ n ih =>
    have hn' : (BitVec.ofNat 4 n).toNat = n := by simp; omega
    have hr : r = BitVec.ofNat 4 n ↔ r.toNat = n := by rw [← BitVec.toNat_inj, hn']
    simp only [State.fillRegs, State.reg_setReg, hr, ih (by omega)]
    split
    · next h => subst h; simp
    · next h => split <;> split <;> first | rfl | omega

/-- `V[0]` to `V[x]`, one by one. -/
theorem State.regsUpTo_length (s : State) (x : Nibble) : (s.regsUpTo x).length = x.toNat + 1 := by
  simp [State.regsUpTo]
  omega

theorem State.regsUpTo_getElem (s : State) (x : Nibble) (k : Nat) (h : k < (s.regsUpTo x).length) :
    (s.regsUpTo x)[k] = s.reg (BitVec.ofNat 4 k) := by
  have hk : k < 16 := by rw [State.regsUpTo_length] at h; omega
  simp [State.regsUpTo, State.reg, Nat.mod_eq_of_lt hk]

/-! ### The bounds check -/

/-- A data access either raises `MEM_BOUNDS` or goes on (R61). -/
theorem State.withData_cases (n : Nat) (s : State) (k : Result) :
    (0 < n ∧ 4096 ≤ s.i.toNat + n - 1 ∧ s.withData n k = .fault (.memBounds (s.i.toNat + n - 1))) ∨
      (¬ (0 < n ∧ 4096 ≤ s.i.toNat + n - 1) ∧ s.withData n k = k) := by
  unfold State.withData
  split
  · next h => exact .inl ⟨h.1, h.2, rfl⟩
  · next h => exact .inr ⟨h, rfl⟩

theorem State.withData_ok {n : Nat} {s : State} (k : Result) (h : n = 0 ∨ s.i.toNat + n ≤ 4096) :
    s.withData n k = k :=
  if_neg (by simp only [Config.memSize]; omega)

theorem State.withData_fault {n : Nat} {s : State} (k : Result) (h0 : 0 < n)
    (h : 4096 < s.i.toNat + n) : s.withData n k = .fault (.memBounds (s.i.toNat + n - 1)) :=
  if_pos (by simp only [Config.memSize]; omega)

/-! ### The stack -/

/-- What pushing a return address does (R122). -/
theorem State.push_cases (s : State) (w : Word) :
    (∃ h : s.sp.val < 16,
      s.push w = .ok { s with stack := s.stack.set s.sp.val w h, sp := ⟨s.sp.val + 1, by omega⟩ }) ∨
      (s.sp.val = 16 ∧ s.push w = .error .stackOverflow) := by
  unfold State.push
  split
  · next h => exact .inl ⟨h, rfl⟩
  · next h => exact .inr ⟨by omega, rfl⟩

/-- What popping a return address does (R120). -/
theorem State.pop_cases (s : State) :
    (∃ _ : s.sp.val ≠ 0,
      s.pop = .ok (s.stack[s.sp.val - 1]'(by omega), { s with sp := ⟨s.sp.val - 1, by omega⟩ })) ∨
      (s.sp.val = 0 ∧ s.pop = .error .stackUnderflow) := by
  unfold State.pop
  split
  · next h => exact .inr ⟨h, rfl⟩
  · next h => exact .inl ⟨h, rfl⟩

/-! ### The keypad and fetch -/

/-- What reading the flag of a key does (R200). -/
theorem State.keyFlag_cases (s : State) (x : Nibble) :
    (∃ h : (s.reg x).toNat < 16, s.keyFlag x = .ok s.key[(s.reg x).toNat]) ∨
      (15 < (s.reg x).toNat ∧ s.keyFlag x = .error (.keyRange (s.reg x))) := by
  unfold State.keyFlag
  split
  · next h => exact .inl ⟨h, rfl⟩
  · next h => exact .inr ⟨by omega, rfl⟩

/-- What fetching does (R60, R101). -/
theorem State.fetch_cases (s : State) :
    (s.pc.toNat < 4095 ∧ s.fetch = .ok (s.byte s.pc.toNat ++ s.byte (s.pc.toNat + 1))) ∨
      (4095 ≤ s.pc.toNat ∧ s.fetch = .error (.fetchBounds s.pc)) := by
  unfold State.fetch
  split
  · next h => exact .inl ⟨h, rfl⟩
  · next h => exact .inr ⟨by omega, rfl⟩

/-! ### Flags -/

/-- A flag is 0 or 1 (R21). -/
theorem flagByte_cases (c : Bool) : (c = true ∧ flagByte c = 1) ∨ (c = false ∧ flagByte c = 0) := by
  cases c <;> simp [flagByte]

theorem flagByte_eq_one {c : Bool} : flagByte c = 1#8 ↔ c = true := by cases c <;> decide

theorem flagByte_eq_zero {c : Bool} : flagByte c = 0#8 ↔ c = false := by cases c <;> decide

end Sys2Proof.Machine
end

