-- ==== Sys2Proof/Laws/Display.lean ====
section
/-! SUPPORT. What a draw does to each pixel, and when it collides (44_display.md R191). -/

namespace Sys2Proof.Machine

theorem Display.pixel_setPixel (d : Display) (x px : Fin 64) (y py : Fin 32) (b : Bool) :
    Display.pixel (Display.setPixel d x y b) px py =
      if px = x ∧ py = y then b else Display.pixel d px py := by
  simp only [Display.pixel, Display.setPixel, Vector.getElem_set, Fin.ext_iff]
  by_cases hy : y.val = py.val
  · by_cases hx : x.val = px.val
    · simp [hy, hx]
    · simp [hy, hx, eq_comm]
  · simp [hy, eq_comm]

@[simp] theorem Display.pixel_blank (x : Fin 64) (y : Fin 32) : Display.pixel Display.blank x y = false := by
  simp [Display.pixel, Display.blank]

/-- Two displays with the same pixels are equal. -/
theorem Display.ext_pixel {d e : Display} (h : ∀ x y, Display.pixel d x y = Display.pixel e x y) : d = e := by
  refine Vector.ext fun j hj => Vector.ext fun i hi => ?_
  exact h ⟨i, hi⟩ ⟨j, hj⟩

/-- Does one of the first `n` bits of a sprite row at `x0` put a 1 on column `px`? -/
def rowOn (x0 : Byte) (row : Byte) (n : Nat) (px : Fin 64) : Bool :=
  (List.range n).any fun b => decide ((x0.toNat + b) % 64 = px.val) && row.getLsbD (7 - b)

theorem rowOn_succ (x0 row : Byte) (n : Nat) (px : Fin 64) :
    rowOn x0 row (n + 1) px =
      (rowOn x0 row n px || (decide ((x0.toNat + n) % 64 = px.val) && row.getLsbD (7 - n))) := by
  simp [rowOn, List.range_succ]

theorem rowOn_col (x0 row : Byte) (n : Nat) (hn : n < 64) : rowOn x0 row n (spriteCol x0 n) = false := by
  rw [rowOn, List.any_eq_false]
  intro b hb
  have hb : b < n := List.mem_range.mp hb
  have : (x0.toNat + b) % 64 ≠ (x0.toNat + n) % 64 := by omega
  simp [spriteCol, this]

/-- The pixels after the first `n` bits of a sprite row. -/
theorem blitRow_pixel (x0 row : Byte) (y : Fin 32) (n : Nat) (hn : n ≤ 8) (acc : Display × Bool)
    (px : Fin 64) (py : Fin 32) :
    Display.pixel (blitRow x0 y row n acc).1 px py =
      (Display.pixel acc.1 px py ^^ (decide (py = y) && rowOn x0 row n px)) := by
  induction n generalizing px py with
  | zero => simp [blitRow, rowOn]
  | succ n ih =>
    have ih := fun px py => ih (by omega) px py
    rw [rowOn_succ]
    simp only [blitRow, blitPixel, Display.pixel_setPixel]
    by_cases hy : py = y
    · subst hy
      by_cases hx : px = spriteCol x0 n
      · subst hx
        simp [ih, rowOn_col x0 row n (by omega), spriteRowBit]
        simp [spriteCol]
      · have hx' : (x0.toNat + n) % 64 ≠ px.val := fun h => hx (by ext; simp [spriteCol, h])
        simp [hx, hx', ih]
    · simp [hy, ih]

/-- A sprite row collides when one of its 1 bits falls on a pixel that is on. -/
theorem blitRow_coll (x0 row : Byte) (y : Fin 32) (n : Nat) (hn : n ≤ 8) (acc : Display × Bool) :
    (blitRow x0 y row n acc).2 =
      (acc.2 || (List.range n).any fun b =>
        row.getLsbD (7 - b) && Display.pixel acc.1 (spriteCol x0 b) y) := by
  induction n with
  | zero => simp [blitRow]
  | succ n ih =>
    rw [List.range_succ, List.any_append]
    simp only [blitRow, blitPixel, ih (by omega), blitRow_pixel x0 row y n (by omega),
      rowOn_col x0 row n (by omega), spriteRowBit, List.any_cons, List.any_nil]
    cases row.getLsbD (7 - n) <;> cases Display.pixel acc.1 (spriteCol x0 n) y <;> simp

theorem spriteOn_eq (bytes : Nat → Byte) (a : Nat) (x0 y0 : Byte) (n : Nat) (px : Fin 64) (py : Fin 32) :
    spriteOn bytes a x0 y0 n px py =
      (List.range n).any fun r =>
        decide ((y0.toNat + r) % 32 = py.val) && rowOn x0 (bytes (a + r)) 8 px := by
  refine congrArg (List.any _) (funext fun r => ?_)
  cases decide ((y0.toNat + r) % 32 = py.val) <;> simp [rowOn]

theorem spriteOn_succ (bytes : Nat → Byte) (a : Nat) (x0 y0 : Byte) (n : Nat) (px : Fin 64) (py : Fin 32) :
    spriteOn bytes a x0 y0 (n + 1) px py =
      (spriteOn bytes a x0 y0 n px py ||
        (decide ((y0.toNat + n) % 32 = py.val) && rowOn x0 (bytes (a + n)) 8 px)) := by
  simp [spriteOn_eq, List.range_succ]

theorem spriteOn_line (bytes : Nat → Byte) (a : Nat) (x0 y0 : Byte) (n : Nat) (hn : n < 32) (px : Fin 64) :
    spriteOn bytes a x0 y0 n px (spriteLine y0 n) = false := by
  rw [spriteOn_eq, List.any_eq_false]
  intro r hr
  have hr : r < n := List.mem_range.mp hr
  have : (y0.toNat + r) % 32 ≠ (y0.toNat + n) % 32 := by omega
  simp [spriteLine, this]

/-- A draw xors each pixel with what the sprite puts on it (R191). -/
theorem blit_pixel (bytes : Nat → Byte) (a : Nat) (x0 y0 : Byte) (n : Nat) (hn : n ≤ 15) (acc : Display × Bool)
    (px : Fin 64) (py : Fin 32) :
    Display.pixel (blit bytes a x0 y0 n acc).1 px py =
      (Display.pixel acc.1 px py ^^ spriteOn bytes a x0 y0 n px py) := by
  induction n with
  | zero => simp [blit, spriteOn]
  | succ n ih =>
    rw [spriteOn_succ]
    simp only [blit, blitRow_pixel _ _ _ 8 (Nat.le_refl 8), ih (by omega)]
    by_cases hy : py = spriteLine y0 n
    · subst hy
      simp only [spriteOn_line bytes a x0 y0 n (by omega)]
      simp [spriteLine]
    · have hy' : (y0.toNat + n) % 32 ≠ py.val := fun h => hy (by ext; simp [spriteLine, h])
      simp [hy, hy']

/-- A draw collides when a 1 bit of the sprite falls on a pixel that was on before the draw (R191). -/
theorem blit_coll (bytes : Nat → Byte) (a : Nat) (x0 y0 : Byte) (n : Nat) (hn : n ≤ 15) (acc : Display × Bool) :
    (blit bytes a x0 y0 n acc).2 =
      (acc.2 || (List.range n).any fun r => (List.range 8).any fun b =>
        (bytes (a + r)).getLsbD (7 - b) &&
          Display.pixel acc.1 (spriteCol x0 b) (spriteLine y0 r)) := by
  induction n with
  | zero => simp [blit]
  | succ n ih =>
    rw [List.range_succ, List.any_append]
    simp only [blit, blitRow_coll _ _ _ 8 (Nat.le_refl 8), ih (by omega),
      blit_pixel bytes a x0 y0 n (by omega), spriteOn_line bytes a x0 y0 n (by omega), Bool.xor_false, List.any_cons,
      List.any_nil, Bool.or_false, Bool.or_assoc]

end Sys2Proof.Machine
end

