-- ==== Sys2Proof/Laws/Exec.lean ====
section
/-! SUPPORT. What the nine instructions that hold or can fault can do, said once each. The other twenty-five
answer one next state, by definition. And what the cycle around them can do. -/

namespace Sys2Proof.Machine

/-- RET (R120). -/
theorem execRet_cases (s : State) :
    (∃ _ : s.sp.val ≠ 0, execRet s = .next (({ s with sp := ⟨s.sp.val - 1, by omega⟩ } : State).jump
        (s.stack[s.sp.val - 1]'(by omega) + 2))) ∨
      (s.sp.val = 0 ∧ execRet s = .fault .stackUnderflow) := by
  rcases s.pop_cases with ⟨h, e⟩ | ⟨h, e⟩
  · exact .inl ⟨h, by simp only [execRet, e]⟩
  · exact .inr ⟨h, by simp only [execRet, e, raise]⟩

/-- CALL (R122). -/
theorem execCall_cases (nnn : Addr) (s : State) :
    (∃ h : s.sp.val < 16, execCall nnn s = .next
        (({ s with stack := s.stack.set s.sp.val s.pc h, sp := ⟨s.sp.val + 1, by omega⟩ } : State).jump
          (addrWord nnn))) ∨
      (s.sp.val = 16 ∧ execCall nnn s = .fault .stackOverflow) := by
  rcases s.push_cases s.pc with ⟨h, e⟩ | ⟨h, e⟩
  · exact .inl ⟨h, by simp only [execCall, e]⟩
  · exact .inr ⟨h, by simp only [execCall, e, raise]⟩

/-- DRW (R191). -/
theorem execDrw_cases (x y n : Nibble) (s : State) :
    ((n.toNat = 0 ∨ s.i.toNat + n.toNat ≤ 4096) ∧ execDrw x y n s = .next
        (((s.setDisp (blit s.byte s.i.toNat (s.reg x) (s.reg y) n.toNat (s.disp, false)).1).setReg 15
          (collisionFlag (blit s.byte s.i.toNat (s.reg x) (s.reg y) n.toNat (s.disp, false)).2)).advance 2)) ∨
      (0 < n.toNat ∧ 4096 < s.i.toNat + n.toNat ∧
        execDrw x y n s = .fault (.memBounds (s.i.toNat + n.toNat - 1))) := by
  unfold execDrw
  rcases s.withData_cases n.toNat _ with ⟨h, h', e⟩ | ⟨h, e⟩ <;> rw [e]
  · exact .inr ⟨h, by omega, rfl⟩
  · exact .inl ⟨by omega, rfl⟩

/-- LD B (R173). -/
theorem execLdBcd_cases (x : Nibble) (s : State) :
    (s.i.toNat + 3 ≤ 4096 ∧ execLdBcd x s =
        .next ((s.storeBytes s.i.toNat (bcdDigits (s.reg x))).advance 2)) ∨
      (4096 < s.i.toNat + 3 ∧ execLdBcd x s = .fault (.memBounds (s.i.toNat + 2))) := by
  unfold execLdBcd
  rcases s.withData_cases 3 _ with ⟨h, h', e⟩ | ⟨h, e⟩ <;> rw [e]
  · exact .inr ⟨by omega, rfl⟩
  · exact .inl ⟨by omega, rfl⟩

/-- LD [I] (R174). -/
theorem execStoreRegs_cases (x : Nibble) (s : State) :
    (s.i.toNat + x.toNat + 1 ≤ 4096 ∧ execStoreRegs x s =
        .next ((s.storeBytes s.i.toNat (s.regsUpTo x)).advance 2)) ∨
      (4096 < s.i.toNat + x.toNat + 1 ∧ execStoreRegs x s = .fault (.memBounds (s.i.toNat + x.toNat))) := by
  unfold execStoreRegs
  rcases s.withData_cases (x.toNat + 1) _ with ⟨h, h', e⟩ | ⟨h, e⟩ <;> rw [e]
  · exact .inr ⟨by omega, rfl⟩
  · exact .inl ⟨by omega, rfl⟩

/-- LD Vx,[I] (R175). -/
theorem execLoadRegs_cases (x : Nibble) (s : State) :
    (s.i.toNat + x.toNat + 1 ≤ 4096 ∧ execLoadRegs x s =
        .next ((s.fillRegs s.byte s.i.toNat (x.toNat + 1)).advance 2)) ∨
      (4096 < s.i.toNat + x.toNat + 1 ∧ execLoadRegs x s = .fault (.memBounds (s.i.toNat + x.toNat))) := by
  unfold execLoadRegs
  rcases s.withData_cases (x.toNat + 1) _ with ⟨h, h', e⟩ | ⟨h, e⟩ <;> rw [e]
  · exact .inr ⟨by omega, rfl⟩
  · exact .inl ⟨by omega, rfl⟩

/-- SKP (R200). -/
theorem execSkp_cases (x : Nibble) (s : State) :
    (∃ h : (s.reg x).toNat < 16, execSkp x s = .next (s.skipIf s.key[(s.reg x).toNat])) ∨
      (15 < (s.reg x).toNat ∧ execSkp x s = .fault (.keyRange (s.reg x))) := by
  rcases s.keyFlag_cases x with ⟨h, e⟩ | ⟨h, e⟩
  · exact .inl ⟨h, by simp only [execSkp, e]⟩
  · exact .inr ⟨h, by simp only [execSkp, e, raise]⟩

/-- SKNP (R201). -/
theorem execSknp_cases (x : Nibble) (s : State) :
    (∃ h : (s.reg x).toNat < 16, execSknp x s = .next (s.skipIf (!s.key[(s.reg x).toNat]))) ∨
      (15 < (s.reg x).toNat ∧ execSknp x s = .fault (.keyRange (s.reg x))) := by
  rcases s.keyFlag_cases x with ⟨h, e⟩ | ⟨h, e⟩
  · exact .inl ⟨h, by simp only [execSknp, e]⟩
  · exact .inr ⟨h, by simp only [execSknp, e, raise]⟩

/-- LD Vx,K (R203). -/
theorem execLdKey_cases (x : Nibble) (s : State) :
    (s.latch = none ∧ execLdKey x s = .next s) ∨
      ∃ k, s.latch = some k ∧
        execLdKey x s = .next (((s.setReg x (symbolByte k)).setLatch none).advance 2) := by
  unfold execLdKey
  cases h : s.latch with
  | none => exact .inl ⟨rfl, rfl⟩
  | some k => exact .inr ⟨k, rfl, rfl⟩

/-- Only RND takes the byte the caller supplies (R108). -/
theorem execWith_cases (r : Byte) (i : Instr) (s : State) :
    (∃ x kk, i = .rnd x kk ∧ execWith r i s = execRndWith r x kk s) ∨
      ((∀ x kk, i ≠ .rnd x kk) ∧ execWith r i s = exec i s) := by
  cases i
  case rnd x kk => exact .inl ⟨x, kk, rfl, rfl⟩
  all_goals exact .inr ⟨nofun, rfl⟩

/-- What a step does on a word that selects no row (R78, R79). -/
theorem unrecognised_cases (w : Word) (s : State) :
    (s.params.sysPolicy = .nop ∧ w.toNat < 0x1000 ∧ unrecognised w s = .next (s.advance 2)) ∨
      (¬ (s.params.sysPolicy = .nop ∧ w.toNat < 0x1000) ∧ unrecognised w s = .fault (.decodeFail w)) := by
  have hw : w &&& 0xF000#16 = 0#16 ↔ w.toNat < 0x1000 := by
    rw [← BitVec.toNat_inj, toNat_and_F000, BitVec.toNat_ofNat]
    omega
  unfold unrecognised
  cases s.params.sysPolicy with
  | fail => exact .inr ⟨by simp, rfl⟩
  | nop =>
    rcases Nat.lt_or_ge w.toNat 0x1000 with h | h
    · exact .inl ⟨rfl, h, if_pos (hw.mpr h)⟩
    · exact .inr ⟨fun h' => by omega, if_neg fun h' => absurd (hw.mp h') (by omega)⟩

/-- What a step can do, whatever executes the decoded instruction (R101, R102, R111). -/
theorem cycle_cases (ex : Instr → State → Result) (s : State) :
    (∃ f, s.fetch = .error f ∧ cycle ex s = .fault f) ∨
      (∃ w i, s.fetch = .ok w ∧ decode w = .ok i ∧ cycle ex s = ex i s) ∨
      ∃ w e, s.fetch = .ok w ∧ decode w = .error e ∧ cycle ex s = unrecognised w s := by
  unfold cycle
  split
  · next f h => exact .inl ⟨f, h, rfl⟩
  · next w h =>
    split
    · next i hi => exact .inr (.inl ⟨w, i, h, hi, rfl⟩)
    · next e he => exact .inr (.inr ⟨w, e, h, he, rfl⟩)

end Sys2Proof.Machine
end

