-- ==== Sys2Proof/Laws/Memory.lean ====
section
/-! SUPPORT. Reads after writes, and the canonical form. A read after a write needs no canonical form: writing
first forgets what was listed at the address. -/

namespace Sys2Proof.Machine

variable {font : Config.Font}

@[simp] theorem Memory.read_nil (a : Nat) : Memory.read font [] a = Memory.initial font a := rfl

theorem Memory.read_erase (m : Memory) (a x : Nat) :
    Memory.read font (m.erase a) x = if x = a then Memory.initial font x else m.read font x := by
  induction m with
  | nil => simp [Memory.erase]
  | cons c rest ih =>
    obtain ⟨k, b⟩ := c
    simp only [Memory.erase, List.filter_cons, bne_iff_ne, ne_eq] at ih ⊢
    by_cases hk : k = a
    · subst hk
      simp only [not_true_eq_false, if_false, ih, Memory.read]
      by_cases hx : x = k <;> simp [hx, eq_comm]
    · simp only [hk, not_false_eq_true, if_true, Memory.read, ih]
      by_cases hx : k = x
      · subst hx; simp [hk]
      · simp [hx]

theorem Memory.read_insert (m : Memory) (a x : Nat) (b : Byte) (h : ∀ c ∈ m, c.1 ≠ a) :
    Memory.read font (m.insert a b) x = if x = a then b else m.read font x := by
  induction m with
  | nil => simp only [Memory.insert, Memory.read, eq_comm]
  | cons c rest ih =>
    obtain ⟨k, d⟩ := c
    have hk : k ≠ a := h (k, d) (by simp)
    simp only [Memory.insert]
    split
    · simp only [Memory.read, eq_comm]
    · simp only [Memory.read, ih fun c hc => h c (by simp [hc])]
      by_cases hx : k = x
      · subst hx; simp [hk]
      · simp [hx]

theorem Memory.mem_erase {m : Memory} {a : Nat} {c : Host.Cell} : c ∈ m.erase a ↔ c ∈ m ∧ c.1 ≠ a := by
  simp [Memory.erase]

/-- A byte reads as what was last written there, and a write leaves every other byte alone (R64). -/
theorem Memory.read_write {a : Nat} (m : Memory) (x : Nat) (b : Byte) (h : a < 4096) :
    (m.write font a b).read font x = if x = a then b else m.read font x := by
  simp only [Memory.write, Config.memSize, h, if_true]
  split
  · next hb =>
    rw [Memory.read_erase]
    split
    · next hx => rw [hb, hx]
    · rfl
  · rw [Memory.read_insert _ _ _ _ fun c hc => (Memory.mem_erase.mp hc).2, Memory.read_erase]
    split <;> rfl

/-- Bytes written from `a` upward read back in order, and every other byte is left alone (R58). -/
theorem Memory.read_writeBytes (m : Memory) (a x : Nat) (bs : List Byte) (h : a + bs.length ≤ 4096) :
    (m.writeBytes font a bs).read font x = if a ≤ x then bs.getD (x - a) (m.read font x) else m.read font x := by
  induction bs generalizing m a with
  | nil => simp [Memory.writeBytes]
  | cons b bs ih =>
    simp only [List.length_cons] at h
    simp only [Memory.writeBytes, ih (m.write font a b) (a + 1) (by omega),
      Memory.read_write m x b (show a < 4096 by omega)]
    rcases Nat.lt_trichotomy x a with hx | hx | hx
    · simp [show ¬ a + 1 ≤ x by omega, show ¬ a ≤ x by omega, show x ≠ a by omega]
    · subst hx; simp
    · obtain ⟨k, rfl⟩ := Nat.exists_eq_add_of_lt hx
      simp [show a + k + 1 - a = k + 1 by omega, show a + k + 1 - (a + 1) = k by omega,
        show a ≤ a + k + 1 by omega, show a + k + 1 ≠ a by omega]

/-- What a state's memory holds after bytes are stored from `a` upward (R58). -/
theorem State.byte_storeBytes (s : State) (a x : Nat) (bs : List Byte) (h : a + bs.length ≤ 4096) :
    (s.storeBytes a bs).byte x = if a ≤ x then bs.getD (x - a) (s.byte x) else s.byte x :=
  Memory.read_writeBytes s.mem a x bs h

/-! ### The canonical form -/

theorem Memory.wf_nil : Memory.wf font [] :=
  ⟨List.Pairwise.nil, fun _ h => nomatch h⟩

theorem Memory.wf_erase {m : Memory} (h : m.wf font) (a : Nat) : Memory.wf font (m.erase a) :=
  ⟨h.1.filter _, fun c hc => h.2 c (Memory.mem_erase.mp hc).1⟩

theorem Memory.mem_insert {m : Memory} {a : Nat} {b : Byte} {c : Host.Cell} :
    c ∈ m.insert a b ↔ c = (a, b) ∨ c ∈ m := by
  induction m with
  | nil => simp [Memory.insert]
  | cons d rest ih =>
    obtain ⟨k, e⟩ := d
    simp only [Memory.insert]
    split
    · simp
    · simp only [List.mem_cons, ih]
      tauto

theorem Memory.rising_insert {m : Memory} (h : m.Pairwise (fun c d => c.1 < d.1)) (a : Nat) (b : Byte)
    (ha : ∀ c ∈ m, c.1 ≠ a) : (m.insert a b).Pairwise (fun c d => c.1 < d.1) := by
  induction m with
  | nil => simp [Memory.insert]
  | cons d rest ih =>
    obtain ⟨k, e⟩ := d
    have hk : k ≠ a := ha (k, e) (by simp)
    obtain ⟨h1, h2⟩ := List.pairwise_cons.mp h
    simp only [Memory.insert]
    split
    · next hlt =>
      refine List.pairwise_cons.mpr ⟨fun c hc => ?_, h⟩
      rcases List.mem_cons.mp hc with rfl | hc
      · exact hlt
      · exact hlt.trans (h1 c hc)
    · refine List.pairwise_cons.mpr ⟨fun c hc => ?_, ih h2 fun c hc => ha c (by simp [hc])⟩
      rcases Memory.mem_insert.mp hc with rfl | hc
      · show k < a
        omega
      · exact h1 c hc

/-- A write keeps the canonical form. -/
theorem Memory.wf_write {m : Memory} (h : m.wf font) (a : Nat) (b : Byte) : (m.write font a b).wf font := by
  unfold Memory.write
  split
  · next ha =>
    split
    · exact Memory.wf_erase h a
    · next hb =>
      refine ⟨Memory.rising_insert (Memory.wf_erase h a).1 a b fun c hc => (Memory.mem_erase.mp hc).2,
        fun c hc => ?_⟩
      rcases Memory.mem_insert.mp hc with rfl | hc
      · exact ⟨ha, hb⟩
      · exact (Memory.wf_erase h a).2 c hc
  · exact h

/-- Writes of several bytes keep the canonical form. -/
theorem Memory.wf_writeBytes {m : Memory} (h : m.wf font) (a : Nat) (bs : List Byte) : (m.writeBytes font a bs).wf font := by
  induction bs generalizing m a with
  | nil => exact h
  | cons b bs ih => exact ih (Memory.wf_write h a b) (a + 1)

end Sys2Proof.Machine
end

