-- ==== Sys2Proof/Laws/PerInstr.lean ====
section
/-! SUPPORT. The family `EncodingRecognised`: the word of every instruction passes the check of R78, instruction
by instruction. -/

namespace Sys2Proof.Laws.EncodingRecognised

/-- No instruction is written as a word that the table of R78 calls unrecognised. -/
def Statement (i : Instr) : Prop := wellFormedWord (encode i) = true

/-- A word of format A whose leading nibble has no further opcode bits. -/
theorem of_nnn {op : Nibble} (nnn : Addr) (h : op.toNat ∈ [1, 2, 10, 11]) :
    wellFormedWord (op ++ nnn) = true := by
  rw [wellFormedWord_iff, toNat_pattern_nnn]
  simp only [List.mem_cons, List.not_mem_nil, or_false] at h ⊢
  omega

/-- A word of format K. -/
theorem of_xkk {op : Nibble} (x : Nibble) (kk : Byte) (h : op.toNat ∈ [3, 4, 6, 7, 12]) :
    wellFormedWord (op ++ x ++ kk) = true := by
  rw [wellFormedWord_iff, toNat_pattern_xkk]
  simp only [List.mem_cons, List.not_mem_nil, or_false] at h ⊢
  omega

/-- A word of format X under the leading nibble E. -/
theorem of_e {kk : Byte} (x : Nibble) (h : kk.toNat ∈ [0x9E, 0xA1]) :
    wellFormedWord (0xE#4 ++ x ++ kk) = true := by
  rw [wellFormedWord_iff, toNat_pattern_xkk]
  simp only [List.mem_cons, List.not_mem_nil, or_false, BitVec.toNat_ofNat] at h ⊢
  omega

/-- A word of format X under the leading nibble F. -/
theorem of_f {kk : Byte} (x : Nibble)
    (h : kk.toNat ∈ [0x07, 0x0A, 0x15, 0x18, 0x1E, 0x29, 0x33, 0x55, 0x65]) :
    wellFormedWord (0xF#4 ++ x ++ kk) = true := by
  rw [wellFormedWord_iff, toNat_pattern_xkk]
  simp only [List.mem_cons, List.not_mem_nil, or_false, BitVec.toNat_ofNat] at h ⊢
  omega

/-- A word of format R under the leading nibble 8. -/
theorem of_8 {n : Nibble} (x y : Nibble) (h : n.toNat ∈ [0, 1, 2, 3, 4, 5, 6, 7, 14]) :
    wellFormedWord (0x8#4 ++ x ++ y ++ n) = true := by
  rw [wellFormedWord_iff, toNat_pattern_xyn]
  simp only [List.mem_cons, List.not_mem_nil, or_false, BitVec.toNat_ofNat] at h ⊢
  omega

/-- A word of format R under the leading nibble 5 or 9. -/
theorem of_xy0 {op : Nibble} (x y : Nibble) (h : op.toNat ∈ [5, 9]) :
    wellFormedWord (op ++ x ++ y ++ 0x0#4) = true := by
  rw [wellFormedWord_iff, toNat_pattern_xyn]
  simp only [List.mem_cons, List.not_mem_nil, or_false, BitVec.toNat_ofNat] at h ⊢
  omega

/-- A word of format D. -/
theorem of_xyn (x y n : Nibble) : wellFormedWord (0xD#4 ++ x ++ y ++ n) = true := by
  rw [wellFormedWord_iff, toNat_pattern_xyn]
  simp only [List.mem_cons, List.not_mem_nil, or_false, BitVec.toNat_ofNat]
  omega

theorem cls : Statement .cls := rfl
theorem ret : Statement .ret := rfl
theorem jp (nnn : Addr) : Statement (.jp nnn) := of_nnn nnn (by decide)
theorem call (nnn : Addr) : Statement (.call nnn) := of_nnn nnn (by decide)
theorem seByte (x : Nibble) (kk : Byte) : Statement (.seByte x kk) := of_xkk x kk (by decide)
theorem sneByte (x : Nibble) (kk : Byte) : Statement (.sneByte x kk) := of_xkk x kk (by decide)
theorem seReg (x y : Nibble) : Statement (.seReg x y) := of_xy0 x y (by decide)
theorem ldByte (x : Nibble) (kk : Byte) : Statement (.ldByte x kk) := of_xkk x kk (by decide)
theorem addByte (x : Nibble) (kk : Byte) : Statement (.addByte x kk) := of_xkk x kk (by decide)
theorem ldReg (x y : Nibble) : Statement (.ldReg x y) := of_8 x y (by decide)
theorem orReg (x y : Nibble) : Statement (.orReg x y) := of_8 x y (by decide)
theorem andReg (x y : Nibble) : Statement (.andReg x y) := of_8 x y (by decide)
theorem xorReg (x y : Nibble) : Statement (.xorReg x y) := of_8 x y (by decide)
theorem addReg (x y : Nibble) : Statement (.addReg x y) := of_8 x y (by decide)
theorem subReg (x y : Nibble) : Statement (.subReg x y) := of_8 x y (by decide)
theorem shr (x y : Nibble) : Statement (.shr x y) := of_8 x y (by decide)
theorem subnReg (x y : Nibble) : Statement (.subnReg x y) := of_8 x y (by decide)
theorem shl (x y : Nibble) : Statement (.shl x y) := of_8 x y (by decide)
theorem sneReg (x y : Nibble) : Statement (.sneReg x y) := of_xy0 x y (by decide)
theorem ldI (nnn : Addr) : Statement (.ldI nnn) := of_nnn nnn (by decide)
theorem jpV0 (nnn : Addr) : Statement (.jpV0 nnn) := of_nnn nnn (by decide)
theorem rnd (x : Nibble) (kk : Byte) : Statement (.rnd x kk) := of_xkk x kk (by decide)
theorem drw (x y n : Nibble) : Statement (.drw x y n) := of_xyn x y n
theorem skp (x : Nibble) : Statement (.skp x) := of_e x (by decide)
theorem sknp (x : Nibble) : Statement (.sknp x) := of_e x (by decide)
theorem ldFromDt (x : Nibble) : Statement (.ldFromDt x) := of_f x (by decide)
theorem ldKey (x : Nibble) : Statement (.ldKey x) := of_f x (by decide)
theorem ldDt (x : Nibble) : Statement (.ldDt x) := of_f x (by decide)
theorem ldSt (x : Nibble) : Statement (.ldSt x) := of_f x (by decide)
theorem addI (x : Nibble) : Statement (.addI x) := of_f x (by decide)
theorem ldFont (x : Nibble) : Statement (.ldFont x) := of_f x (by decide)
theorem ldBcd (x : Nibble) : Statement (.ldBcd x) := of_f x (by decide)
theorem storeRegs (x : Nibble) : Statement (.storeRegs x) := of_f x (by decide)
theorem loadRegs (x : Nibble) : Statement (.loadRegs x) := of_f x (by decide)

end Sys2Proof.Laws.EncodingRecognised
end

