-- ==== Sys2Proof/Tests/Slice0.lean ====
section
/-! SUPPORT. Tests whose expected results are those of spec/95_test_vectors.md (the vector's name stands in each
comment), a check that ill-formed terms are refused, and a witness for the hypotheses of each statement. -/

open Sys2Proof Sys2Proof.Machine

namespace Sys2Proof.Tests

/-! ### Small states -/

/-- `s` with some registers set. -/
def withRegs (s : State) : List (Nibble × Byte) → State
  | [] => s
  | (x, b) :: rest => withRegs (s.setReg x b) rest

/-- `s` with bytes of memory written from an address. -/
def withBytes (s : State) (a : Nat) (bytes : List Byte) : State := s.storeBytes a bytes

/-- One step on the word `w` placed at pc: it answers a next state that passes the check. -/
def runs (s : State) (w : Nat) (check : State → Bool) : Bool :=
  match step (s.withFetchWord 16 w) with
  | .next t => check t
  | .fault _ => false
  | .refused _ => false

/-- One step with a given random byte. -/
def runsWith (r : Byte) (s : State) (w : Nat) (check : State → Bool) : Bool :=
  match stepWith r (s.withFetchWord 16 w) with
  | .next t => check t
  | .fault _ => false
  | .refused _ => false

/-- One step on the word `w` placed at pc: it faults with `f`. -/
def faults (s : State) (w : Nat) (f : Fault) : Bool :=
  match step (s.withFetchWord 16 w) with
  | .next _ => false
  | .fault g => g == f
  | .refused _ => false

/-- The state right after RESET. -/
abbrev r0 : State := State.reset

/-- The state right after RESET of a machine whose shifts take V[Y], which passes over 0x0NNN, and whose font is
blank. -/
abbrev r1 : State :=
  State.resetWith { font := Vector.replicate 80 0, shiftSrc := .vy, sysPolicy := .nop }

/-! ### What is refused as ill formed (R78, R235, R233) -/

theorem test_refuses_0NNN : wellFormedWord 0x0123 = false ∧ wellFormedWord 0x0000 = false := by decide
theorem test_refuses_5XY1 : wellFormedWord 0x5001 = false ∧ wellFormedWord 0x5340 = true := by decide
theorem test_refuses_8XY8 : wellFormedWord 0x8008 = false ∧ wellFormedWord 0x800F = false := by decide
theorem test_refuses_9XY1 : wellFormedWord 0x9341 = false ∧ wellFormedWord 0x9340 = true := by decide
theorem test_refuses_EX9F : wellFormedWord 0xE09F = false ∧ wellFormedWord 0xE000 = false := by decide
theorem test_refuses_FX00 : wellFormedWord 0xF000 = false ∧ wellFormedWord 0xF075 = false := by decide
theorem test_refuses_key_16 : wellFormedKey 16 = false ∧ wellFormedKey 15 = true := by decide
theorem test_refuses_rom_3585 : wellFormedRom (List.replicate 3585 0) = false := by
  rw [wellFormedRom, List.length_replicate]
  decide
theorem test_takes_rom_3584 : wellFormedRom (List.replicate 3584 0) = true := by
  rw [wellFormedRom, List.length_replicate]
  decide
theorem test_refuses_one_byte : decodeBytes [0x12] = .error .tooShort := by decide

/-! ### Decoding: a word written out from the pattern of R76 for every constructor -/

theorem test_decode_cls : decode 0b0000000011100000 = .ok .cls := by decide
theorem test_decode_ret : decode 0b0000000011101110 = .ok .ret := by decide
theorem test_decode_jp : decode 0b0001101010111100 = .ok (.jp 0xABC) := by decide
theorem test_decode_call : decode 0b0010001100000001 = .ok (.call 0x301) := by decide
theorem test_decode_seByte : decode 0b0011001101000010 = .ok (.seByte 3 0x42) := by decide
theorem test_decode_sneByte : decode 0b0100001101000011 = .ok (.sneByte 3 0x43) := by decide
theorem test_decode_seReg : decode 0b0101101010110000 = .ok (.seReg 10 11) := by decide
theorem test_decode_ldByte : decode 0b0110101011111111 = .ok (.ldByte 10 0xFF) := by decide
theorem test_decode_addByte : decode 0b0111000100000001 = .ok (.addByte 1 1) := by decide
theorem test_decode_ldReg : decode 0b1000000100100000 = .ok (.ldReg 1 2) := by decide
theorem test_decode_orReg : decode 0b1000000100100001 = .ok (.orReg 1 2) := by decide
theorem test_decode_andReg : decode 0b1000000100100010 = .ok (.andReg 1 2) := by decide
theorem test_decode_xorReg : decode 0b1000000100100011 = .ok (.xorReg 1 2) := by decide
theorem test_decode_addReg : decode 0b1000101010110100 = .ok (.addReg 10 11) := by decide
theorem test_decode_subReg : decode 0b1000000100100101 = .ok (.subReg 1 2) := by decide
theorem test_decode_shr : decode 0b1000001000110110 = .ok (.shr 2 3) := by decide
theorem test_decode_subnReg : decode 0b1000000100100111 = .ok (.subnReg 1 2) := by decide
theorem test_decode_shl : decode 0b1000001000111110 = .ok (.shl 2 3) := by decide
theorem test_decode_sneReg : decode 0b1001001101000000 = .ok (.sneReg 3 4) := by decide
theorem test_decode_ldI : decode 0b1010001011110000 = .ok (.ldI 0x2F0) := by decide
theorem test_decode_jpV0 : decode 0b1011000100100011 = .ok (.jpV0 0x123) := by decide
theorem test_decode_rnd : decode 0b1100001100001111 = .ok (.rnd 3 0x0F) := by decide
theorem test_decode_drw : decode 0b1101000100101010 = .ok (.drw 1 2 10) := by decide
theorem test_decode_skp : decode 0b1110000110011110 = .ok (.skp 1) := by decide
theorem test_decode_sknp : decode 0b1110000110100001 = .ok (.sknp 1) := by decide
theorem test_decode_ldFromDt : decode 0b1111001000000111 = .ok (.ldFromDt 2) := by decide
theorem test_decode_ldKey : decode 0b1111001100001010 = .ok (.ldKey 3) := by decide
theorem test_decode_ldDt : decode 0b1111001000010101 = .ok (.ldDt 2) := by decide
theorem test_decode_ldSt : decode 0b1111001000011000 = .ok (.ldSt 2) := by decide
theorem test_decode_addI : decode 0b1111010000011110 = .ok (.addI 4) := by decide
theorem test_decode_ldFont : decode 0b1111000000101001 = .ok (.ldFont 0) := by decide
theorem test_decode_ldBcd : decode 0b1111010100110011 = .ok (.ldBcd 5) := by decide
theorem test_decode_storeRegs : decode 0b1111001001010101 = .ok (.storeRegs 2) := by decide
theorem test_decode_loadRegs : decode 0b1111000101100101 = .ok (.loadRegs 1) := by decide

/-- R57: the high byte lies first. -/
theorem test_decode_bytes : decodeBytes [0x12, 0x34, 0x56] = .ok (.jp 0x234, [0x56]) := by decide
theorem test_decode_table_word : decodeTableWord 16 0xF165 = some (.loadRegs 1) := by decide
theorem test_encode_bytes : encodeBytes (.call 0x300) = [0x23, 0x00] := by decide

/-- R77: no two rows test the same mask for the same pattern, and the table has one row per instruction. -/
theorem test_rows_differ : opTable.length = 34 ∧ (opTable.map fun r => (r.mask, r.pattern)).Nodup := by decide

/-! ### Control transfer (vectors F) -/

/-- F1 -/
theorem test_ret : runs { r0 with sp := 1, stack := r0.stack.set 0 0x204, pc := 0x300 } 0x00EE
    (fun t => t.pc = 0x206 ∧ t.sp = 0 ∧ t.stack[0] = 0x204) = true := by decide
/-- F2 -/
theorem test_ret_empty : faults r0 0x00EE .stackUnderflow = true := by decide
/-- F4 -/
theorem test_jp : runs r0 0x1ABC (fun t => t.pc = 0x0ABC) = true := by decide
/-- F9 -/
theorem test_call_last_slot : runs { r0 with sp := 15, pc := 0x0ABC } 0x2300
    (fun t => t.pc = 0x300 ∧ t.sp = 16 ∧ t.stack[15] = 0x0ABC) = true := by decide
/-- F10 -/
theorem test_call_full : faults { r0 with sp := 16 } 0x2300 .stackOverflow = true := by decide
/-- F15 -/
theorem test_seByte_skips : runs (withRegs r0 [(3, 0x42)]) 0x3342 (fun t => t.pc = 0x204) = true := by decide
/-- F16 -/
theorem test_seByte_goes_on : runs (withRegs r0 [(3, 0x42)]) 0x3343 (fun t => t.pc = 0x202) = true := by decide
/-- F17 -/
theorem test_sneByte_goes_on : runs (withRegs r0 [(3, 0x42)]) 0x4342 (fun t => t.pc = 0x202) = true := by decide
/-- F18 -/
theorem test_sneByte_skips : runs (withRegs r0 [(3, 0x42)]) 0x4343 (fun t => t.pc = 0x204) = true := by decide
/-- F19 -/
theorem test_seReg_skips : runs (withRegs r0 [(3, 0x42), (4, 0x42)]) 0x5340 (fun t => t.pc = 0x204) = true := by
  decide
/-- F20 -/
theorem test_seReg_goes_on : runs (withRegs r0 [(3, 0x42), (4, 0x43)]) 0x5340 (fun t => t.pc = 0x202) = true := by
  decide
/-- F22 -/
theorem test_sneReg_goes_on : runs (withRegs r0 [(3, 0x42), (4, 0x42)]) 0x9340 (fun t => t.pc = 0x202) = true := by
  decide
/-- F23 -/
theorem test_sneReg_skips : runs (withRegs r0 [(3, 0x42), (4, 0x43)]) 0x9340 (fun t => t.pc = 0x204) = true := by
  decide
/-- F11: NNN is ignored -/
theorem test_jpV0 : runs (withRegs { r0 with i := 0x300 } [(0, 0x10)]) 0xB123 (fun t => t.pc = 0x310) = true := by
  decide
/-- F13 -/
theorem test_jpV0_wraps : runs (withRegs { r0 with i := 0xFFFF } [(0, 2)]) 0xB000 (fun t => t.pc = 1) = true := by
  decide

/-! ### Registers and arithmetic (vectors A) -/

/-- A2: VF is an ordinary destination -/
theorem test_ldByte_vf : runs (withRegs r0 [(15, 1)]) 0x6F00 (fun t => t.reg 15 = 0) = true := by decide
/-- A4: wraps, VF kept -/
theorem test_addByte_wraps : runs (withRegs r0 [(1, 0xFF), (15, 1)]) 0x7101
    (fun t => t.reg 1 = 0 ∧ t.reg 15 = 1 ∧ t.pc = 0x202) = true := by decide
/-- A6 -/
theorem test_ldReg : runs (withRegs r0 [(1, 0xAA), (2, 0x55)]) 0x8120 (fun t => t.reg 1 = 0x55) = true := by decide
/-- A7 -/
theorem test_orReg : runs (withRegs r0 [(1, 0xAA), (2, 0x55), (15, 1)]) 0x8121
    (fun t => t.reg 1 = 0xFF ∧ t.reg 15 = 1) = true := by decide
/-- A8 -/
theorem test_andReg : runs (withRegs r0 [(1, 0xAC), (2, 0x5A), (15, 1)]) 0x8122
    (fun t => t.reg 1 = 0x08 ∧ t.reg 15 = 1) = true := by decide
/-- A9 -/
theorem test_xorReg : runs (withRegs r0 [(1, 0xAC), (2, 0x5A), (15, 1)]) 0x8123
    (fun t => t.reg 1 = 0xF6 ∧ t.reg 15 = 1) = true := by decide
/-- A11 -/
theorem test_addReg_carry : runs (withRegs r0 [(0, 0xFF), (1, 1)]) 0x8014
    (fun t => t.reg 0 = 0 ∧ t.reg 15 = 1) = true := by decide
/-- A15: the flag overwrites the sum -/
theorem test_addReg_vf : runs (withRegs r0 [(15, 0xFF), (1, 2)]) 0x8F14 (fun t => t.reg 15 = 1) = true := by decide
/-- A17 -/
theorem test_subReg_borrow : runs (withRegs r0 [(0, 5), (1, 10)]) 0x8015
    (fun t => t.reg 0 = 0xFB ∧ t.reg 15 = 0) = true := by decide
/-- A19: equal operands give 0 -/
theorem test_subReg_equal : runs (withRegs r0 [(0, 7), (1, 7), (15, 1)]) 0x8015
    (fun t => t.reg 0 = 0 ∧ t.reg 15 = 0) = true := by decide
/-- A28 -/
theorem test_shr : runs (withRegs r0 [(2, 0xFF), (3, 2)]) 0x8236
    (fun t => t.reg 2 = 0x7F ∧ t.reg 15 = 1) = true := by decide
/-- A30: the shifted value is lost -/
theorem test_shr_vf : runs (withRegs r0 [(15, 6)]) 0x8FF6 (fun t => t.reg 15 = 0) = true := by decide
/-- A22 -/
theorem test_subnReg : runs (withRegs r0 [(0, 5), (1, 10)]) 0x8017
    (fun t => t.reg 0 = 5 ∧ t.reg 15 = 1) = true := by decide
/-- A23 -/
theorem test_subnReg_borrow : runs (withRegs r0 [(0, 10), (1, 5)]) 0x8017
    (fun t => t.reg 0 = 0xFB ∧ t.reg 15 = 0) = true := by decide
/-- A31 -/
theorem test_shl : runs (withRegs r0 [(2, 0x81)]) 0x822E (fun t => t.reg 2 = 2 ∧ t.reg 15 = 1) = true := by decide
/-- A32 -/
theorem test_shl_clears_flag : runs (withRegs r0 [(2, 0x41), (15, 1)]) 0x822E
    (fun t => t.reg 2 = 0x82 ∧ t.reg 15 = 0) = true := by decide
/-- A35 -/
theorem test_rnd_masks : runsWith 0xA7 r0 0xC30F (fun t => t.reg 3 = 7 ∧ t.pc = 0x202) = true := by decide
/-- A36, by the model's own step: the byte is free, and the mask 0 gives 0 -/
theorem test_rnd_zero_mask : ∃ t, exec (.rnd 3 0) (withRegs r0 [(3, 0x55)]) = .next t ∧ t.reg 3 = 0 :=
  ⟨_, rfl, by simp [State.reg]⟩

/-! ### The index register and memory (vectors M) -/

/-- M1 -/
theorem test_ldI : runs r0 0xA2F0 (fun t => t.i = 0x2F0 ∧ t.pc = 0x202) = true := by decide
/-- M4: past 0xFFF, no flag -/
theorem test_addI_passes_4095 : runs (withRegs { r0 with i := 0xFFF } [(4, 1)]) 0xF41E
    (fun t => t.i = 0x1000 ∧ t.reg 15 = 0) = true := by decide
/-- M5 -/
theorem test_addI_wraps : runs (withRegs { r0 with i := 0xFFFF } [(4, 1)]) 0xF41E (fun t => t.i = 0) = true := by
  decide
/-- M6 -/
theorem test_ldFont : runs (withRegs r0 [(0, 10)]) 0xF029 (fun t => t.i = 0x32) = true := by decide
/-- M10 -/
theorem test_ldFont_whole_byte : runs (withRegs r0 [(0, 0xFF)]) 0xF029 (fun t => t.i = 0x4FB) = true := by decide
/-- M11 -/
theorem test_ldBcd : runs (withRegs { r0 with i := 0x300 } [(0, 0xEA)]) 0xF033
    (fun t => t.byte 0x300 = 2 ∧ t.byte 0x301 = 3 ∧ t.byte 0x302 = 4) = true := by decide
/-- M15 -/
theorem test_ldBcd_one_past : faults (withRegs { r0 with i := 0xFFE } [(5, 9)]) 0xF533 (.memBounds 0x1000) = true := by
  decide
/-- M17 -/
theorem test_storeRegs : runs (withRegs { r0 with i := 0x400 } [(0, 0x11), (1, 0x22), (2, 0x33), (3, 0x44)]) 0xF255
    (fun t => t.byte 0x402 = 0x33 ∧ t.byte 0x403 = 0 ∧ t.i = 0x400) = true := by decide
/-- M20 -/
theorem test_storeRegs_one_past : faults { r0 with i := 0xFF1 } 0xFF55 (.memBounds 0x1000) = true := by decide
/-- M22 -/
theorem test_loadRegs : runs (withRegs (withBytes { r0 with i := 0x300 } 0x300 [2, 3, 4, 9]) [(3, 0x77)]) 0xF265
    (fun t => t.reg 2 = 4 ∧ t.reg 3 = 0x77 ∧ t.i = 0x300) = true := by decide
/-- M25 -/
theorem test_loadRegs_one_past : faults { r0 with i := 0xFFF } 0xF165 (.memBounds 0x1000) = true := by decide

/-! ### The display (vectors G) -/

/-- G1 -/
theorem test_cls : runs { r0 with disp := Display.setPixel r0.disp 63 31 true } 0x00E0
    (fun t => t.disp.pixel 63 31 = false ∧ t.pc = 0x202) = true := by decide
/-- G4: columns wrap -/
theorem test_drw_wraps : runs (withRegs (withBytes { r0 with i := 0x300 } 0x300 [0xFF]) [(0, 60), (1, 5)]) 0xD011
    (fun t => t.disp.pixel 63 5 = true ∧ t.disp.pixel 3 5 = true ∧ t.disp.pixel 4 5 = false) = true := by decide
/-- G7: a pixel goes off -/
theorem test_drw_collides :
    runs (withBytes { r0 with i := 0x300, disp := Display.setPixel r0.disp 1 0 true } 0x300 [0xC0]) 0xD011
      (fun t => t.reg 15 = 1 ∧ t.disp.pixel 0 0 = true ∧ t.disp.pixel 1 0 = false) = true := by decide

/-! ### The keypad and the timers (vectors K) -/

/-- K1 -/
theorem test_skp : runs (withRegs { r0 with key := r0.key.set 7 true } [(0, 7)]) 0xE09E
    (fun t => t.pc = 0x204) = true := by decide
/-- K6 -/
theorem test_skp_range : faults (withRegs r0 [(0, 0x10)]) 0xE09E (.keyRange 0x10) = true := by decide
/-- K3 -/
theorem test_sknp : runs (withRegs { r0 with key := r0.key.set 7 true } [(0, 7)]) 0xE0A1
    (fun t => t.pc = 0x202) = true := by decide
/-- K7: not masked to 7 -/
theorem test_sknp_range : faults (withRegs { r0 with key := r0.key.set 7 true } [(0, 0x17)]) 0xE0A1
    (.keyRange 0x17) = true := by decide
/-- K13 -/
theorem test_ldFromDt : runs { r0 with dt := 0x3C } 0xF207 (fun t => t.reg 2 = 0x3C) = true := by decide
/-- K9: holds -/
theorem test_ldKey_holds : runs (withRegs r0 [(3, 0x55)]) 0xF30A (fun t => t.pc = 0x200 ∧ t.reg 3 = 0x55) = true := by
  decide
/-- K10: key 0 is a key -/
theorem test_ldKey_takes : runs (withRegs { r0 with latch := some 0 } [(3, 0x55)]) 0xF30A
    (fun t => t.pc = 0x202 ∧ t.reg 3 = 0 ∧ t.latch = none) = true := by decide
/-- K15 -/
theorem test_ldDt : runs (withRegs r0 [(2, 0xFF)]) 0xF215 (fun t => t.dt = 0xFF ∧ t.st = 0) = true := by decide
/-- K17 -/
theorem test_ldSt : runs (withRegs r0 [(2, 1)]) 0xF218 (fun t => t.st = 1 ∧ t.dt = 0) = true := by decide

/-! ### Fetch, decode and statuses (vectors X; R221) -/

/-- X1 -/
theorem test_unrecognised : faults r0 0x5001 (.decodeFail 0x5001) = true := by decide
/-- X2: with no image loaded -/
theorem test_no_image : faults r0 0x0000 (.decodeFail 0) = true := by decide
/-- X8: a word placed there is not fetched -/
theorem test_fetch_bounds : faults { r0 with pc := 0xFFF } 0x6122 (.fetchBounds 0xFFF) = true := by decide
/-- X11: an odd pc -/
theorem test_odd_pc : runs { r0 with pc := 0x201 } 0x6122 (fun t => t.reg 1 = 0x22 ∧ t.pc = 0x203) = true := by decide
/-- R221 -/
theorem test_codes : statusCode (.next r0) = some 0 ∧ statusCode (raise (.keyRange 0x10)) = some 6 ∧
    Fault.code .stackOverflow = 4 ∧ Fault.info (.memBounds 0x1000) = some 4096 := by decide

/-! ### The host's operations (vectors H) -/

/-- H3 and H4 -/
theorem test_tick : (operate { r0 with st := 1 } .tick).1 = .tone true ∧
    (operate { r0 with st := 2 } .tick).1 = .tone false := by decide
/-- H9: a release leaves the latch -/
theorem test_key_release :
    (operate { r0 with key := r0.key.set 3 true, latch := some 3 } (.key 3 false)).2.latch = some 3 := by decide
/-- H14 -/
theorem test_load : (r0.load [0x12, 0x34]).2.byte 0x201 = 0x34 := by decide
/-- M23: the glyph of 0, in the font of R56; and R36, of another font -/
theorem test_font : r0.byte 0 = 0xF0 ∧ r0.byte 1 = 0x90 ∧ r0.byte 79 = 0x80 ∧ r0.byte 80 = 0 ∧ r1.byte 0 = 0 := by
  decide

/-! ### The open parameters at other values -/

/-- A28 under SHIFT_SRC = Vy -/
theorem test_shr_vy : runs (withRegs r1 [(2, 0xFF), (3, 2)]) 0x8236
    (fun t => t.reg 2 = 1 ∧ t.reg 15 = 0 ∧ t.reg 3 = 2) = true := by decide
/-- R150 under SHIFT_SRC = Vy -/
theorem test_shl_vy : runs (withRegs r1 [(2, 1), (3, 0x81)]) 0x823E
    (fun t => t.reg 2 = 2 ∧ t.reg 15 = 1) = true := by decide
/-- R79 under SYS_POLICY = nop; the literal 00EE is matched before it -/
theorem test_sys_nop : runs r1 0x0123 (fun t => t.pc = 0x202) = true ∧ faults r1 0x00EE .stackUnderflow = true ∧
    faults r1 0x5001 (.decodeFail 0x5001) = true := by decide
/-- R270, D27: RESET restores the font of the machine over a store into it -/
theorem test_reset_restores_font :
    (operate (withBytes r0 0 [0xAA]) .reset).2.byte 0 = 0xF0 ∧ (operate (withBytes r1 0 [0xAA]) .reset).2.byte 0 = 0 := by
  decide

/-! ### Hypotheses that can be met -/

theorem witness_EncodeOfDecode : decode 0x8AB4#16 = .ok (.addReg 10 11) := by decide
theorem witness_RowOrderIsImmaterial : opTable.reverse.Perm opTable := opTable.reverse_perm
theorem witness_UnrecognisedWordsAreTheTable : wellFormedWord 0x8AB4 = true ∧ wellFormedWord 0x5001 = false := by decide
theorem witness_SysWordsFailOrAdvance :
    (r0.withFetchWord 16 0x0FFF).pc.toNat < 4095 ∧ (r0.withFetchWord 16 0x0FFF).wordAtPc.toNat < 0x1000 ∧
    (r0.withFetchWord 16 0x0FFF).wordAtPc ≠ 0x00E0#16 ∧ (r0.withFetchWord 16 0x0FFF).wordAtPc ≠ 0x00EE#16 ∧
    (r0.withFetchWord 16 0x0FFF).params.sysPolicy = .fail := by decide
theorem witness_SysWordsFailOrAdvance_nop :
    (r1.withFetchWord 16 0x0FFF).pc.toNat < 4095 ∧ (r1.withFetchWord 16 0x0FFF).wordAtPc.toNat < 0x1000 ∧
    (r1.withFetchWord 16 0x0FFF).wordAtPc ≠ 0x00E0#16 ∧ (r1.withFetchWord 16 0x0FFF).wordAtPc ≠ 0x00EE#16 ∧
    (r1.withFetchWord 16 0x0FFF).params.sysPolicy = .nop := by decide
theorem witness_FetchIsBigEndian : ({ r0 with pc := 0xFFE } : State).pc.toNat < 4095 := by decide
theorem witness_StepRunsDecodedInstruction :
    (r0.withFetchWord 16 0x6122).pc.toNat < 4095 ∧
      decode (r0.withFetchWord 16 0x6122).wordAtPc = .ok (.ldByte 1 0x22) := by decide
theorem witness_FetchOutOfBoundsFaults : 4095 ≤ ({ r0 with pc := 0xFFF } : State).pc.toNat ∧
    4095 ≤ ({ r0 with pc := 0xFFFF } : State).pc.toNat := by decide
/-- A word 0x0NNN where the policy is fail, and the first word above where it is nop. -/
theorem witness_DecodeFailureChangesNothing : (r0.pc.toNat < 4095 ∧ r0.failsDecode) ∧
    (r1.withFetchWord 16 0x5001).pc.toNat < 4095 ∧ (r1.withFetchWord 16 0x5001).failsDecode :=
  ⟨⟨by decide, by decide, by decide⟩, by decide, by decide, by decide⟩
/-- One state for each of the three kinds of fault. -/
theorem witness_StepFaultsExactlyByTable :
    4095 ≤ ({ r0 with pc := 0xFFF } : State).pc.toNat ∧
    (r0.pc.toNat < 4095 ∧ r0.failsDecode) ∧
    (decode (r0.withFetchWord 16 0x00EE).wordAtPc = .ok .ret ∧
      faultOf .ret (r0.withFetchWord 16 0x00EE) = some .stackUnderflow) :=
  ⟨by decide, ⟨by decide, by decide, by decide⟩, by decide⟩
theorem witness_EveryInstructionMovesPcByTable :
    faultOf .cls r0 = none ∧ (operate r0 (.step 0)).1 = .faulted (.decodeFail 0) := by decide
theorem witness_FaultChangesNothing : (operate r0 (.step 0)).1 = .faulted (.decodeFail 0) := by decide
theorem witness_FaultRepeatsUntilResetOrLoad :
    step r0 = .fault (.decodeFail 0) ∧
      ∀ op ∈ [Operation.tick, .step 7, .key 3 true, .display], op ≠ .reset ∧ ∀ bytes, op ≠ .load bytes :=
  ⟨rfl, by simp⟩
theorem witness_RandomByteMattersToRndAlone : ∀ x kk, decode r0.wordAtPc ≠ .ok (.rnd x kk) := by
  intro x kk h
  have : decode r0.wordAtPc = .error (.unrecognised 0) := by decide
  rw [this] at h
  cases h
/-- An instruction that completes and one that faults. -/
theorem witness_KeypadMattersToKeypadInstructionsAlone :
    (∃ t, exec .cls r0 = .next t) ∧ exec .ret r0 = .fault .stackUnderflow ∧
      (∀ x, Instr.cls ≠ .skp x) ∧ (∀ x, Instr.cls ≠ .sknp x) ∧ (∀ x, Instr.cls ≠ .ldKey x) ∧
      (∀ x, Instr.ret ≠ .skp x) ∧ (∀ x, Instr.ret ≠ .sknp x) ∧ ∀ x, Instr.ret ≠ .ldKey x :=
  ⟨⟨_, rfl⟩, rfl, nofun, nofun, nofun, nofun, nofun, nofun⟩
theorem witness_SelfJumpStays : (r0.withFetchWord 16 0x1200).pc.toNat < 4095 ∧
    decode (r0.withFetchWord 16 0x1200).wordAtPc = .ok (.jp 0x200) ∧
    (0x200 : Addr).toNat = (r0.withFetchWord 16 0x1200).pc.toNat := by decide
theorem witness_CallPushesItsOwnAddress : r0.sp.val < 16 ∧ ({ r0 with sp := 15 } : State).sp.val < 16 ∧
    ({ r0 with sp := 16 } : State).sp.val = 16 := by decide
theorem witness_ReturnGoesPastTheCall : ({ r0 with sp := 1 } : State).sp.val = 0 + 1 ∧
    ({ r0 with sp := 16 } : State).sp.val = 15 + 1 ∧ r0.sp.val = 0 := by decide
theorem witness_ReturnUndoesCall : ({ r0 with sp := 15 } : State).sp.val < 16 ∧ sameStack r0 r0 := ⟨by decide, rfl, rfl⟩
theorem witness_flag_destination : (14 : Nibble) ≠ 15 ∧ (0 : Nibble) ≠ 15 := by decide
theorem witness_BcdStoresDigits : ({ r0 with i := 0xFFD } : State).i.toNat + 2 ≤ 4095 ∧
    4095 < ({ r0 with i := 0xFFE } : State).i.toNat + 2 := by decide
theorem witness_RegistersAreStored : ({ r0 with i := 0xFF0 } : State).i.toNat + (15 : Nibble).toNat ≤ 4095 ∧
    4095 < ({ r0 with i := 0xFF1 } : State).i.toNat + (15 : Nibble).toNat := by decide
theorem witness_RegistersAreLoaded : ({ r0 with i := 0xFFF } : State).i.toNat + (0 : Nibble).toNat ≤ 4095 ∧
    4095 < ({ r0 with i := 0xFFF } : State).i.toNat + (1 : Nibble).toNat := by decide
theorem witness_LoadUndoesStore : ∃ t, exec (.storeRegs 2) { r0 with i := 0x400 } = .next t ∧ t.i = t.i ∧ sameMem t t :=
  ⟨_, rfl, rfl, fun _ => rfl⟩
/-- M21: over the next instruction. -/
theorem witness_StoredBytesAreFetched : ∃ t, exec (.storeRegs 1) { r0 with i := 0x202 } = .next t ∧
    0 < (1 : Nibble).toNat ∧ t.pc.toNat = ({ r0 with i := 0x202 } : State).i.toNat + 0 :=
  ⟨_, rfl, by decide, by decide⟩
/-- No row; the last row that fits; the first that does not. -/
theorem witness_DrawXorsEveryPixel : (0 : Nibble) = 0 ∧
    ({ r0 with i := 0xFF1 } : State).i.toNat + (15 : Nibble).toNat - 1 ≤ 4095 ∧
    (15 : Nibble) ≠ 0 ∧ 4095 < ({ r0 with i := 0xFF2 } : State).i.toNat + (15 : Nibble).toNat - 1 := by decide
theorem witness_SecondDrawRestores : ∃ t, exec (.drw 0 1 1) r0 = .next t ∧ samePixels t t ∧ sameMem r0 t ∧
    t.i = r0.i ∧ t.reg 0 = r0.reg 0 ∧ t.reg 1 = r0.reg 1 :=
  ⟨_, rfl, fun _ _ => rfl, fun _ => rfl, rfl, rfl, rfl⟩
theorem witness_SkipsOnKey : ((withRegs r0 [(0, 15)]).reg 0).toNat < 16 ∧
    15 < ((withRegs r0 [(0, 16)]).reg 0).toNat := by decide
theorem witness_KeyWaitHoldsOrTakes : r0.latch = none ∧ ({ r0 with latch := some 0 } : State).latch = some 0 := by decide
theorem witness_RegistersWrittenByTable :
    (∃ t, exec (.addReg 1 2) r0 = .next t) ∧ writesReg (.addReg 1 2) 2 = false := ⟨⟨_, rfl⟩, by decide⟩
/-- The byte before and the byte after those stored. -/
theorem witness_MemoryWrittenByStoresOnly : (∃ t, exec (.storeRegs 1) { r0 with i := 0x400 } = .next t) ∧
    ¬ (({ r0 with i := 0x400 } : State).i.toNat ≤ 0x3FF ∧
      0x3FF < ({ r0 with i := 0x400 } : State).i.toNat + bytesStored (.storeRegs 1)) ∧
    ¬ (({ r0 with i := 0x400 } : State).i.toNat ≤ 0x402 ∧
      0x402 < ({ r0 with i := 0x400 } : State).i.toNat + bytesStored (.storeRegs 1)) := ⟨⟨_, rfl⟩, by decide, by decide⟩
theorem witness_StackTouchedByCallAndReturnOnly :
    (∃ t, exec .cls r0 = .next t) ∧ (∀ nnn, Instr.cls ≠ .call nnn) ∧ Instr.cls ≠ .ret := ⟨⟨_, rfl⟩, nofun, nofun⟩
theorem witness_IndexAndDisplayWriters :
    (∃ t, exec (.ldI 5) r0 = .next t) ∧ ¬ writesDisplay (.ldI 5) ∧ (∃ t, exec .cls r0 = .next t) ∧ ¬ writesI .cls :=
  ⟨⟨_, rfl⟩, by simp [writesDisplay], ⟨_, rfl⟩, by simp [writesI]⟩
theorem witness_KeypadAndTimerWriters : (∃ t, exec .cls r0 = .next t) ∧ (∀ x, Instr.cls ≠ .ldKey x) ∧
    (∀ x, Instr.cls ≠ .ldDt x) ∧ ∀ x, Instr.cls ≠ .ldSt x := ⟨⟨_, rfl⟩, nofun, nofun, nofun⟩
theorem witness_StepKeepsMemoryForm :
    (r0.withFetchWord 16 0xF055).Inv ∧ ∃ t, step (r0.withFetchWord 16 0xF055) = .next t := ⟨by decide, _, rfl⟩
theorem witness_OperationsKeepMemoryForm : r0.Inv := by decide
theorem witness_MemoryFormIsUnique : Memory.wf Params.font [(0x300, 1)] := by decide
theorem witness_ImageIsFetchedAfterReset :
    (0x12#8 :: 0x34#8 :: List.replicate 3582 0xAA#8).length ≤ 3584 := by
  rw [List.length_cons, List.length_cons, List.length_replicate]
theorem witness_LoadCopiesVerbatim :
    (List.replicate 3584 0xAA#8).length ≤ 3584 ∧ 3584 < (List.replicate 3585 0xAA#8).length := by
  rw [List.length_replicate, List.length_replicate]
  decide
theorem witness_ParametersAreFixed : ∃ t, step (r1.withFetchWord 16 0x0FFF) = .next t := ⟨_, rfl⟩
theorem witness_KeyEventSetsFlagAndLatch : (0 ≤ 15 ∧ 15 ≤ 15) ∧ 15 < 16 := by decide

end Sys2Proof.Tests
end

section
/-! ## Invariants of steps and sequences of operations

What holds of every next state a step can answer, and of the state after any sequence of operations, said for any
property of states. `ParametersAreFixed` is the instance where the property is to have given parameters. -/

namespace Sys2Proof.Machine

/-! ### The next state an outcome answers -/

/-- Every next state that the outcome answers satisfies `P`; a fault or a refusal answers none. -/
def NextSatisfies (P : State → Prop) (r : Result) : Prop := ∀ t, r = .next t → P t

section
variable {P : State → Prop} {r : Result} {s u : State}

theorem nextSatisfies_of_eq_next (e : r = .next u) (h : P u) : NextSatisfies P r := by
  subst e
  rintro t ⟨⟩
  exact h

theorem nextSatisfies_of_eq_fault {f : Fault} (e : r = .fault f) : NextSatisfies P r := by
  subst e
  exact nofun

/-! ### From executing to stepping -/

/-- A word that selects no row only advances pc, or faults (R79). -/
theorem nextSatisfies_unrecognised (w : Word) (h : P (s.advance 2)) : NextSatisfies P (unrecognised w s) := by
  rcases unrecognised_cases w s with ⟨-, -, e⟩ | ⟨-, e⟩
  · exact nextSatisfies_of_eq_next e h
  · exact nextSatisfies_of_eq_fault e

/-- A cycle satisfies what the execution of each instruction satisfies, if advancing pc alone does (R79, R111). -/
theorem nextSatisfies_cycle {ex : Instr → State → Result} (hex : ∀ i, NextSatisfies P (ex i s))
    (hadv : P (s.advance 2)) : NextSatisfies P (cycle ex s) := by
  rcases cycle_cases ex s with ⟨f, -, e⟩ | ⟨w, i, -, -, e⟩ | ⟨w, _, -, -, e⟩
  · exact nextSatisfies_of_eq_fault e
  · exact e ▸ hex i
  · exact e ▸ nextSatisfies_unrecognised w hadv

/-! ### From operations to sequences of operations -/

/-- STEP leaves the state as it was unless it answers a next state (R224). -/
theorem operate_step_of_nextSatisfies {b : Byte} (hs : P s) (h : NextSatisfies P (stepWith b s)) :
    P (operate s (.step b)).2 := by
  simp only [operate]
  split
  · next t e => exact h t e
  · exact hs
  · exact hs

/-- What every operation keeps, every sequence of operations keeps (R232). -/
theorem runOps_keeps (hop : ∀ s op, P s → P (operate s op).2) (hs : P s) (ops : List Operation) :
    P (runOps s ops).2 := by
  induction ops generalizing s with
  | nil => exact hs
  | cons op ops ih => exact ih (hop s op hs)

end

/-! ### The parameters -/

@[simp] theorem State.fillRegs_params (s : State) (bytes : Nat → Byte) (a n : Nat) :
    (s.fillRegs bytes a n).params = s.params := by
  rw [State.fillRegs_eq]

@[simp] theorem State.keyEvent_params (s : State) (k : Nibble) (pressed : Bool) :
    (s.keyEvent k pressed).params = s.params := by
  cases pressed <;> rfl

@[simp] theorem State.load_params (s : State) (bytes : List Byte) : (s.load bytes).2.params = s.params := by
  unfold State.load
  split <;> rfl

/-- No instruction changes the parameters: nine hold or can fault, the others answer one next state. -/
theorem exec_keeps_params (i : Instr) (s : State) : NextSatisfies (·.params = s.params) (exec i s) := by
  cases i
  case ret =>
    rcases execRet_cases s with ⟨_, e⟩ | ⟨-, e⟩
    exacts [nextSatisfies_of_eq_next e rfl, nextSatisfies_of_eq_fault e]
  case call nnn =>
    rcases execCall_cases nnn s with ⟨_, e⟩ | ⟨-, e⟩
    exacts [nextSatisfies_of_eq_next e rfl, nextSatisfies_of_eq_fault e]
  case drw x y n =>
    rcases execDrw_cases x y n s with ⟨-, e⟩ | ⟨-, -, e⟩
    exacts [nextSatisfies_of_eq_next e rfl, nextSatisfies_of_eq_fault e]
  case skp x =>
    rcases execSkp_cases x s with ⟨_, e⟩ | ⟨-, e⟩
    exacts [nextSatisfies_of_eq_next e rfl, nextSatisfies_of_eq_fault e]
  case sknp x =>
    rcases execSknp_cases x s with ⟨_, e⟩ | ⟨-, e⟩
    exacts [nextSatisfies_of_eq_next e rfl, nextSatisfies_of_eq_fault e]
  case ldKey x =>
    rcases execLdKey_cases x s with ⟨-, e⟩ | ⟨k, -, e⟩
    exacts [nextSatisfies_of_eq_next e rfl, nextSatisfies_of_eq_next e rfl]
  case ldBcd x =>
    rcases execLdBcd_cases x s with ⟨-, e⟩ | ⟨-, e⟩
    exacts [nextSatisfies_of_eq_next e rfl, nextSatisfies_of_eq_fault e]
  case storeRegs x =>
    rcases execStoreRegs_cases x s with ⟨-, e⟩ | ⟨-, e⟩
    exacts [nextSatisfies_of_eq_next e rfl, nextSatisfies_of_eq_fault e]
  case loadRegs x =>
    rcases execLoadRegs_cases x s with ⟨-, e⟩ | ⟨-, e⟩
    exacts [nextSatisfies_of_eq_next e (by simp), nextSatisfies_of_eq_fault e]
  all_goals exact nextSatisfies_of_eq_next rfl rfl

theorem execWith_keeps_params (b : Byte) (i : Instr) (s : State) :
    NextSatisfies (·.params = s.params) (execWith b i s) := by
  rcases execWith_cases b i s with ⟨x, kk, -, e⟩ | ⟨-, e⟩
  · exact nextSatisfies_of_eq_next e rfl
  · exact e ▸ exec_keeps_params i s

theorem step_keeps_params (s : State) : NextSatisfies (·.params = s.params) (step s) :=
  nextSatisfies_cycle (fun i => exec_keeps_params i s) rfl

theorem stepWith_keeps_params (b : Byte) (s : State) : NextSatisfies (·.params = s.params) (stepWith b s) :=
  nextSatisfies_cycle (fun i => execWith_keeps_params b i s) rfl

theorem operate_params (s : State) (op : Operation) : (operate s op).2.params = s.params := by
  cases op with
  | reset => rfl
  | load bytes => exact s.load_params bytes
  | step b => exact operate_step_of_nextSatisfies (P := (·.params = s.params)) rfl (stepWith_keeps_params b s)
  | tick => rfl
  | key k pressed =>
    simp only [operate]
    split
    · exact s.keyEvent_params (BitVec.ofNat 4 k) pressed
    · rfl
  | display => rfl

theorem runOps_params (s : State) (ops : List Operation) : (runOps s ops).2.params = s.params :=
  runOps_keeps (P := (·.params = s.params)) (fun t op ht => (operate_params t op).trans ht) rfl ops

/-- Settles O60: the parameters are kept by every instruction, so by the cycle around it, and by every operation, so
by every sequence of them. -/
theorem parametersAreFixed : Obligations.ParametersAreFixed := by
  unfold Obligations.ParametersAreFixed
  exact ⟨rfl, rfl, rfl, fun s => ⟨step_keeps_params s, runOps_params s⟩⟩

end Sys2Proof.Machine
end

section
/-! ## The tables of 10_state.md

`exec` follows the tables of the spec, said once for all 34 instructions: it faults where the table of R222 names a
fault and completes where it names none, and an instruction that completes puts pc where R25 says and writes only the
registers, stack slots, I and display that R22, R23, R26, R27 and R28 name for it. The statements of the family are
read off from that. At the end, the table of R36. -/

namespace Sys2Proof.Machine

/-! ### Registers that an update leaves alone -/

theorem State.reg_setReg_of_beq_false (s : State) {x r : Nibble} (b : Byte) (h : (r == x) = false) :
    (s.setReg x b).reg r = s.reg r := by
  rw [State.reg_setReg, if_neg (beq_eq_false_iff_ne.mp h)]

theorem State.reg_setRegFlag_of_beq_false (s : State) {x r : Nibble} (b f : Byte)
    (h : (r == x || r == 15) = false) : (s.setRegFlag x b f).reg r = s.reg r := by
  obtain ⟨hx, h15⟩ := Bool.or_eq_false_iff.mp h
  exact ((s.setReg x b).reg_setReg_of_beq_false f h15).trans (s.reg_setReg_of_beq_false b hx)

/-! ### Values in the spelling of the tables -/

theorem addrWord_eq_ofNat (nnn : Addr) : addrWord nnn = BitVec.ofNat 16 nnn.toNat :=
  (BitVec.ofNat_toNat 16 nnn).symm

theorem add_byteWord_eq_ofNat (w : Word) (b : Byte) : w + byteWord b = BitVec.ofNat 16 (w.toNat + b.toNat) := by
  rw [byteWord, BitVec.ofNat_add, BitVec.ofNat_toNat, BitVec.ofNat_toNat, BitVec.setWidth_eq]

theorem State.skipIf_pc_eq_ite (s : State) (c : Bool) : (s.skipIf c).pc = if c then s.pc + 4 else s.pc + 2 := by
  cases c <;> rfl

theorem State.skipIf_not_pc_eq_ite (s : State) (c : Bool) :
    (s.skipIf (!c)).pc = if c then s.pc + 2 else s.pc + 4 := by
  cases c <;> rfl

theorem State.skipIf_beq_pc (s : State) (a b : Byte) :
    (s.skipIf (a == b)).pc = if a = b then s.pc + 4 else s.pc + 2 := by
  simp only [State.skipIf_pc_eq_ite, beq_iff_eq]

theorem State.skipIf_bne_pc (s : State) (a b : Byte) :
    (s.skipIf (a != b)).pc = if a = b then s.pc + 2 else s.pc + 4 := by
  simp only [bne, State.skipIf_not_pc_eq_ite, beq_iff_eq]

/-- A slot, key flag or font byte as the tables read it, at an index that is there. -/
theorem getD_toList_of_lt {α : Type} {n k : Nat} (v : Vector α n) (d : α) (h : k < n) :
    v.toList.getD k d = v[k] := by
  rw [List.getD_eq_getElem _ _ (by simpa using h), Vector.getElem_toList]

/-! ### What an instruction that completes may change -/

/-- From `s` to `t`, pc went where the table puts it for `i`, and of the registers, I, the display and the stack only
what the tables name for `i` was written. A field that is not given says that the update computes to what the table
says. -/
structure ChangesByTable (i : Instr) (s t : State) : Prop where
  /-- R25 -/
  pc : t.pc = pcAfter i s := by rfl
  /-- R22 -/
  reg : ∀ r, writesReg i r = false → t.reg r = s.reg r := by intros; rfl
  /-- R23 -/
  index : ¬ writesI i → t.i = s.i := by intros; rfl
  /-- R28 -/
  disp : ¬ writesDisplay i → t.disp = s.disp := by intros; rfl
  /-- R26 -/
  stack : (∀ nnn, i ≠ .call nnn) → t.stack = s.stack := by intros; rfl
  /-- R27 -/
  sp : (∀ nnn, i ≠ .call nnn) → i ≠ .ret → t.sp = s.sp := by intros; rfl

namespace ChangesByTable
variable {i : Instr} {s : State}

theorem of_setReg {x : Nibble} {b : Byte} (hpc : s.pc + 2 = pcAfter i s) (hreg : ∀ r, writesReg i r = (r == x)) :
    ChangesByTable i s ((s.setReg x b).advance 2) where
  pc := hpc
  reg r h := s.reg_setReg_of_beq_false b (hreg r ▸ h)

theorem of_setRegFlag {x : Nibble} {b f : Byte} (hpc : s.pc + 2 = pcAfter i s)
    (hreg : ∀ r, writesReg i r = (r == x || r == 15)) : ChangesByTable i s ((s.setRegFlag x b f).advance 2) where
  pc := hpc
  reg r h := s.reg_setRegFlag_of_beq_false b f (hreg r ▸ h)

theorem of_setI {w : Word} (hpc : s.pc + 2 = pcAfter i s) (hi : writesI i) :
    ChangesByTable i s ((s.setI w).advance 2) where
  pc := hpc
  index h := absurd hi h

/-- The next state changed by pc alone. -/
theorem of_jump {w : Word} (hpc : w = pcAfter i s) : ChangesByTable i s (s.jump w) where
  pc := hpc

end ChangesByTable

/-! ### Following the tables -/

/-- What an outcome of `i` in `s` may be by the tables: a next state that changed by the tables where R222 names no
fault, and the fault that it names where it names one; never a refusal. -/
inductive FollowsTables (i : Instr) (s : State) : Result → Prop where
  | completes {t : State} (noFault : faultOf i s = none) (changes : ChangesByTable i s t) : FollowsTables i s (.next t)
  | faults {f : Fault} (fault : faultOf i s = some f) : FollowsTables i s (.fault f)

theorem execRet_followsTables (s : State) : FollowsTables .ret s (execRet s) := by
  have hsp : s.sp = 0 ↔ s.sp.val = 0 := Fin.ext_iff
  rcases execRet_cases s with ⟨h, e⟩ | ⟨h, e⟩ <;> rw [e]
  · refine .completes (if_neg (hsp.not.mpr h)) { pc := ?_, sp := fun _ hret => absurd rfl hret }
    exact congrArg (· + 2) (getD_toList_of_lt s.stack 0 (by omega)).symm
  · exact .faults (if_pos (hsp.mpr h))

theorem execCall_followsTables (nnn : Addr) (s : State) : FollowsTables (.call nnn) s (execCall nnn s) := by
  have hsp : s.sp = 16 ↔ s.sp.val = 16 := Fin.ext_iff
  rcases execCall_cases nnn s with ⟨h, e⟩ | ⟨h, e⟩ <;> rw [e]
  · exact .completes (if_neg (hsp.not.mpr (by omega)))
      { pc := addrWord_eq_ofNat nnn
        stack := fun hcall => absurd rfl (hcall nnn)
        sp := fun hcall => absurd rfl (hcall nnn) }
  · exact .faults (if_pos (hsp.mpr h))

theorem execDrw_followsTables (x y n : Nibble) (s : State) : FollowsTables (.drw x y n) s (execDrw x y n s) := by
  rcases execDrw_cases x y n s with ⟨h, e⟩ | ⟨h0, h, e⟩ <;> rw [e]
  · exact .completes (if_neg (by omega))
      { reg := fun _ hr => State.reg_setReg_of_beq_false _ _ hr
        disp := fun hd => absurd (.inr ⟨x, y, n, rfl⟩) hd }
  · exact .faults (if_pos (by omega))

theorem execSkp_followsTables (x : Nibble) (s : State) : FollowsTables (.skp x) s (execSkp x s) := by
  rcases execSkp_cases x s with ⟨h, e⟩ | ⟨h, e⟩ <;> rw [e]
  · refine .completes (if_neg (by omega)) (.of_jump ?_)
    simp only [pcAfter, getD_toList_of_lt s.key false h]
    exact s.skipIf_pc_eq_ite _
  · exact .faults (if_pos h)

theorem execSknp_followsTables (x : Nibble) (s : State) : FollowsTables (.sknp x) s (execSknp x s) := by
  rcases execSknp_cases x s with ⟨h, e⟩ | ⟨h, e⟩ <;> rw [e]
  · refine .completes (if_neg (by omega)) (.of_jump ?_)
    simp only [pcAfter, getD_toList_of_lt s.key false h]
    exact s.skipIf_not_pc_eq_ite _
  · exact .faults (if_pos h)

/-- LD Vx,K holds where no key is latched (R203). -/
theorem execLdKey_followsTables (x : Nibble) (s : State) : FollowsTables (.ldKey x) s (execLdKey x s) := by
  rcases execLdKey_cases x s with ⟨h, e⟩ | ⟨k, h, e⟩ <;> rw [e]
  · exact .completes rfl { pc := (if_pos h).symm }
  · exact .completes rfl
      { pc := (if_neg (h ▸ Option.some_ne_none k)).symm
        reg := fun _ hr => s.reg_setReg_of_beq_false _ hr }

theorem execLdBcd_followsTables (x : Nibble) (s : State) : FollowsTables (.ldBcd x) s (execLdBcd x s) := by
  rcases execLdBcd_cases x s with ⟨h, e⟩ | ⟨h, e⟩ <;> rw [e]
  · exact .completes (if_neg (by omega)) {}
  · exact .faults (if_pos (by omega))

theorem execStoreRegs_followsTables (x : Nibble) (s : State) :
    FollowsTables (.storeRegs x) s (execStoreRegs x s) := by
  rcases execStoreRegs_cases x s with ⟨h, e⟩ | ⟨h, e⟩ <;> rw [e]
  · exact .completes (if_neg (by omega)) {}
  · exact .faults (if_pos (by omega))

theorem changesByTable_loadRegs (x : Nibble) (s : State) (bytes : Nat → Byte) (a : Nat) :
    ChangesByTable (.loadRegs x) s ((s.fillRegs bytes a (x.toNat + 1)).advance 2) := by
  have hreg : ∀ r, writesReg (.loadRegs x) r = false → (s.fillRegs bytes a (x.toNat + 1)).reg r = s.reg r := by
    intro r hr
    have hr : ¬ r.toNat ≤ x.toNat := of_decide_eq_false hr
    rw [State.reg_fillRegs _ _ _ _ x.isLt, if_neg (by omega)]
  rw [State.fillRegs_eq] at hreg ⊢
  exact { reg := hreg }

theorem execLoadRegs_followsTables (x : Nibble) (s : State) : FollowsTables (.loadRegs x) s (execLoadRegs x s) := by
  rcases execLoadRegs_cases x s with ⟨h, e⟩ | ⟨h, e⟩ <;> rw [e]
  · exact .completes (if_neg (by omega)) (changesByTable_loadRegs x s s.byte s.i.toNat)
  · exact .faults (if_pos (by omega))

/-- Every instruction follows the tables (R22, R23, R25 to R28, R222). -/
theorem exec_followsTables (i : Instr) (s : State) : FollowsTables i s (exec i s) := by
  cases i
  case ret => exact execRet_followsTables s
  case call nnn => exact execCall_followsTables nnn s
  case drw x y n => exact execDrw_followsTables x y n s
  case skp x => exact execSkp_followsTables x s
  case sknp x => exact execSknp_followsTables x s
  case ldKey x => exact execLdKey_followsTables x s
  case ldBcd x => exact execLdBcd_followsTables x s
  case storeRegs x => exact execStoreRegs_followsTables x s
  case loadRegs x => exact execLoadRegs_followsTables x s
  case cls => exact .completes rfl { disp := fun hd => absurd (.inl rfl) hd }
  case jp nnn => exact .completes rfl (.of_jump (addrWord_eq_ofNat nnn))
  case jpV0 nnn => exact .completes rfl (.of_jump (add_byteWord_eq_ofNat s.i (s.reg 0)))
  case seByte x kk => exact .completes rfl (.of_jump (s.skipIf_beq_pc (s.reg x) kk))
  case sneByte x kk => exact .completes rfl (.of_jump (s.skipIf_bne_pc (s.reg x) kk))
  case seReg x y => exact .completes rfl (.of_jump (s.skipIf_beq_pc (s.reg x) (s.reg y)))
  case sneReg x y => exact .completes rfl (.of_jump (s.skipIf_bne_pc (s.reg x) (s.reg y)))
  case ldByte | addByte | ldReg | orReg | andReg | xorReg | ldFromDt =>
    exact .completes rfl (.of_setReg rfl fun _ => rfl)
  case rnd => exact .completes rfl { reg := fun _ hr => s.reg_setReg_of_beq_false _ hr }
  case addReg | subReg | shr | subnReg | shl => exact .completes rfl (.of_setRegFlag rfl fun _ => rfl)
  case ldI nnn => exact .completes rfl (.of_setI rfl (.inl ⟨nnn, rfl⟩))
  case addI x => exact .completes rfl (.of_setI rfl (.inr (.inl ⟨x, rfl⟩)))
  case ldFont x => exact .completes rfl (.of_setI rfl (.inr (.inr ⟨x, rfl⟩)))
  case ldDt | ldSt => exact .completes rfl {}

theorem changesByTable_of_exec {i : Instr} {s t : State} (h : exec i s = .next t) : ChangesByTable i s t := by
  have hf := exec_followsTables i s
  rw [h] at hf
  cases hf with
  | completes _ changes => exact changes

theorem exec_completes_of_faultOf_none {i : Instr} {s : State} (h : faultOf i s = none) :
    ∃ t, exec i s = .next t ∧ ChangesByTable i s t := by
  generalize hr : exec i s = r
  cases hr ▸ exec_followsTables i s with
  | completes _ changes => exact ⟨_, rfl, changes⟩
  | faults fault => exact absurd (h.symm.trans fault) nofun

/-! ### The statements read off from the tables -/

/-- A STEP that answers a fault leaves the state as it was (R224). -/
theorem operate_step_state_of_faulted {s : State} {b : Byte} {f : Fault}
    (h : (operate s (.step b)).1 = .faulted f) : (operate s (.step b)).2 = s := by
  simp only [operate] at h ⊢
  split at h
  · exact absurd h nofun
  · rfl
  · exact absurd h nofun

/-- Settles O12: an instruction without a fault in the table completes and follows the table of R25, and a faulted
STEP keeps the whole state. -/
theorem everyInstructionMovesPcByTable : Obligations.EveryInstructionMovesPcByTable := by
  unfold Obligations.EveryInstructionMovesPcByTable
  refine ⟨fun i s h => ?_, fun s b f h => congrArg State.pc (operate_step_state_of_faulted h)⟩
  obtain ⟨t, e, changes⟩ := exec_completes_of_faultOf_none h
  exact ⟨t, e, changes.pc⟩

/-- Settles O44: what a completed instruction changes is in the tables. -/
theorem registersWrittenByTable : Obligations.RegistersWrittenByTable := by
  unfold Obligations.RegistersWrittenByTable
  exact fun i s t r h hr => (changesByTable_of_exec h).reg r hr

/-- Settles O46: what a completed instruction changes is in the tables. -/
theorem stackTouchedByCallAndReturnOnly : Obligations.StackTouchedByCallAndReturnOnly := by
  unfold Obligations.StackTouchedByCallAndReturnOnly
  exact fun i s t h hcall => ⟨(changesByTable_of_exec h).stack hcall, (changesByTable_of_exec h).sp hcall⟩

/-- Settles O47: what a completed instruction changes is in the tables. -/
theorem indexAndDisplayWriters : Obligations.IndexAndDisplayWriters := by
  unfold Obligations.IndexAndDisplayWriters
  exact fun i s t h => ⟨(changesByTable_of_exec h).index, (changesByTable_of_exec h).disp⟩

/-! ### The table of values after RESET -/

theorem Memory.initial_of_lt (font : Config.Font) {a : Nat} (h : a < 80) : Memory.initial font a = font[a] :=
  getD_toList_of_lt font 0 h

theorem Memory.initial_of_le (font : Config.Font) {a : Nat} (h : 80 ≤ a) : Memory.initial font a = 0 :=
  List.getD_eq_default _ _ (by simpa using h)

/-- Settles O53: RESET gives the reset state of the machine's parameters, up to the count of draws, which no row of
the table reads; each row is a replicated or a constant field, and memory lists nothing, so it reads as the font. -/
theorem resetGivesTheTable : Obligations.ResetGivesTheTable := by
  unfold Obligations.ResetGivesTheTable
  refine fun s => ⟨rfl, fun t ht => ?_⟩
  obtain ⟨n, rfl⟩ : ∃ n, t = { State.resetWith s.params with rndDraws := n } := by
    rcases List.mem_pair.mp ht with rfl | rfl
    exacts [⟨0, rfl⟩, ⟨s.rndDraws, rfl⟩]
  exact ⟨fun _ => Vector.getElem_replicate _, rfl, rfl, fun _ _ => Vector.getElem_replicate _, rfl,
    Display.pixel_blank, fun _ _ => Vector.getElem_replicate _, rfl, rfl, rfl,
    fun _ => Memory.initial_of_lt s.params.font, fun _ => Memory.initial_of_le s.params.font⟩

end Sys2Proof.Machine
end

section
/-! ## Memory and fetch (20_memory.md)

A fetch reads two bytes of memory, the high one first, or faults. The bytes an instruction stores lie in the range the
table of R52 gives it, each reads back as the byte that was stored there, and no byte outside changes; so a fetch from
inside the range reads what was stored. -/

namespace Sys2Proof.Machine

/-! ### The fetched word -/

theorem State.fetch_of_lt {s : State} (h : s.pc.toNat < 4095) :
    s.fetch = .ok (s.byte s.pc.toNat ++ s.byte (s.pc.toNat + 1)) :=
  if_pos h

theorem State.fetch_of_le {s : State} (h : 4095 ≤ s.pc.toNat) : s.fetch = .error (.fetchBounds s.pc) :=
  if_neg (by omega)

/-- The value of a word whose high byte is `hi` (R57). -/
theorem toNat_append_byte (hi lo : Byte) : (hi ++ lo).toNat = hi.toNat * 256 + lo.toNat := by
  rw [BitVec.toNat_append, ← Nat.shiftLeft_add_eq_or_of_lt lo.isLt, Nat.shiftLeft_eq]

/-- Settles O7: the fetched word is the two bytes at pc appended; the source's example by evaluation. -/
theorem fetchIsBigEndian : Obligations.FetchIsBigEndian := by
  unfold Obligations.FetchIsBigEndian
  exact ⟨fun s h => ⟨_, s.fetch_of_lt h, toNat_append_byte _ _⟩, rfl, rfl, rfl⟩

/-! ### A fetch outside memory -/

/-- A cycle whose fetch is out of bounds faults, whatever executes the instruction (R60). -/
theorem cycle_of_pc_outside {s : State} (ex : Instr → State → Result) (h : 4095 ≤ s.pc.toNat) :
    cycle ex s = .fault (.fetchBounds s.pc) := by
  simp only [cycle, s.fetch_of_le h, raise]

/-- STEP answers a fault with the state as it was (R224). -/
theorem operate_step_of_fault {s : State} {r : Byte} {f : Fault} (h : stepWith r s = .fault f) :
    operate s (.step r) = (.faulted f, s) := by
  rw [operate, h]

/-- Settles O9: the fetch is the first phase of every cycle, so its fault is the answer of the step and of STEP. -/
theorem fetchOutOfBoundsFaults : Obligations.FetchOutOfBoundsFaults := by
  unfold Obligations.FetchOutOfBoundsFaults
  exact fun s r h => ⟨cycle_of_pc_outside exec h, operate_step_of_fault (cycle_of_pc_outside (execWith r) h)⟩

/-! ### Bytes inside and outside a stored range -/

theorem State.byte_storeBytes_add (s : State) {a k : Nat} {bs : List Byte} (h : a + bs.length ≤ 4096)
    (hk : k < bs.length) : (s.storeBytes a bs).byte (a + k) = bs[k] := by
  rw [s.byte_storeBytes _ _ _ h, if_pos (a.le_add_right k), Nat.add_sub_cancel_left, List.getD_eq_getElem _ _ hk]

theorem State.byte_storeBytes_of_outside (s : State) {a x : Nat} {bs : List Byte} (h : a + bs.length ≤ 4096)
    (hx : ¬ (a ≤ x ∧ x < a + bs.length)) : (s.storeBytes a bs).byte x = s.byte x := by
  rw [s.byte_storeBytes _ _ _ h]
  split
  · next hax => exact List.getD_eq_default _ _ (by omega)
  · rfl

@[simp] theorem State.byte_fillRegs (s : State) (bytes : Nat → Byte) (a n x : Nat) :
    (s.fillRegs bytes a n).byte x = s.byte x := by
  rw [State.fillRegs_eq]
  rfl

/-! ### Code that LD [I],Vx has just stored -/

/-- LD [I],Vx completes only inside memory, and stores V[0] to V[X] (R61, R174). -/
theorem exec_storeRegs_eq_next {x : Nibble} {s t : State} (h : exec (.storeRegs x) s = .next t) :
    s.i.toNat + x.toNat + 1 ≤ 4096 ∧ t = (s.storeBytes s.i.toNat (s.regsUpTo x)).advance 2 := by
  rcases execStoreRegs_cases x s with ⟨hb, e⟩ | ⟨-, e⟩ <;> cases h.symm.trans e
  exact ⟨hb, rfl⟩

/-- After LD [I],Vx, memory holds V[k] at I + k (R174). -/
theorem byte_of_exec_storeRegs {x : Nibble} {s t : State} {k : Nat} (h : exec (.storeRegs x) s = .next t)
    (hk : k ≤ x.toNat) : t.byte (s.i.toNat + k) = s.reg (BitVec.ofNat 4 k) := by
  obtain ⟨hb, rfl⟩ := exec_storeRegs_eq_next h
  have hlen := s.regsUpTo_length x
  rw [State.byte_advance, s.byte_storeBytes_add (by omega) (by omega), State.regsUpTo_getElem]

/-- Settles O37: pc and pc + 1 are both in the stored range, which lies inside memory, so the fetch does not fault and
reads V[k] and V[k + 1] there. -/
theorem storedBytesAreFetched : Obligations.StoredBytesAreFetched := by
  unfold Obligations.StoredBytesAreFetched
  intro x s t k h hk hpc
  obtain ⟨hb, -⟩ := exec_storeRegs_eq_next h
  have hlt : t.pc.toNat < 4095 := by omega
  rw [t.fetch_of_lt hlt, hpc, byte_of_exec_storeRegs h (by omega), Nat.add_assoc, byte_of_exec_storeRegs h hk]

/-! ### What each instruction leaves of memory -/

/-- Every byte outside the `n` bytes from `a` upward reads in `t` as in `s`. -/
def SameBytesOutside (a n : Nat) (s t : State) : Prop := ∀ x, ¬ (a ≤ x ∧ x < a + n) → t.byte x = s.byte x

theorem sameBytesOutside_of_sameMem {a n : Nat} {s t : State} (h : sameMem s t) : SameBytesOutside a n s t :=
  fun x _ => h x

/-- Storing bytes and moving pc changes the stored range alone (R58). -/
theorem sameBytesOutside_storeBytes {a n : Nat} {s : State} {bs : List Byte} (hn : bs.length = n) (h : a + n ≤ 4096)
    (d : Word) : SameBytesOutside a n s ((s.storeBytes a bs).advance d) := by
  subst hn
  exact fun x hx => s.byte_storeBytes_of_outside h hx

/-- What holds of the one next state an outcome can be, where it is no fault. -/
theorem nextSatisfies_of_next_or_fault {P : State → Prop} {r : Result} {p q : Prop} {u : p → State} {f : Fault}
    (hr : (∃ h, r = .next (u h)) ∨ (q ∧ r = .fault f)) (hu : ∀ h, P (u h)) : NextSatisfies P r := by
  rcases hr with ⟨h, e⟩ | ⟨-, e⟩
  · exact nextSatisfies_of_eq_next e (hu h)
  · exact nextSatisfies_of_eq_fault e

/-- An instruction to which the table of R52 gives no byte leaves all of memory: of the nine that hold or can fault,
the seven that do not store; the others answer one next state. -/
theorem exec_sameMem {i : Instr} {s : State} (h : bytesStored i = 0) : NextSatisfies (sameMem s) (exec i s) := by
  cases i
  case ldBcd | storeRegs => cases h
  case ret => exact nextSatisfies_of_next_or_fault (execRet_cases s) fun _ _ => rfl
  case call nnn => exact nextSatisfies_of_next_or_fault (execCall_cases nnn s) fun _ _ => rfl
  case skp x => exact nextSatisfies_of_next_or_fault (execSkp_cases x s) fun _ _ => rfl
  case sknp x => exact nextSatisfies_of_next_or_fault (execSknp_cases x s) fun _ _ => rfl
  case drw x y n =>
    exact nextSatisfies_of_next_or_fault ((execDrw_cases x y n s).imp exists_prop.mpr and_assoc.mpr) fun _ _ => rfl
  case loadRegs x =>
    exact nextSatisfies_of_next_or_fault ((execLoadRegs_cases x s).imp_left exists_prop.mpr)
      fun _ => s.byte_fillRegs s.byte s.i.toNat (x.toNat + 1)
  case ldKey x =>
    rcases execLdKey_cases x s with ⟨-, e⟩ | ⟨k, -, e⟩
    exacts [nextSatisfies_of_eq_next e fun _ => rfl, nextSatisfies_of_eq_next e fun _ => rfl]
  all_goals exact nextSatisfies_of_eq_next rfl fun _ => rfl

theorem bcdDigits_length (b : Byte) : (bcdDigits b).length = 3 := rfl

/-- Every instruction that completes leaves the bytes outside those the table of R52 gives it. -/
theorem exec_sameBytesOutside (i : Instr) (s : State) :
    NextSatisfies (SameBytesOutside s.i.toNat (bytesStored i) s) (exec i s) := by
  cases i
  case ldBcd x =>
    exact nextSatisfies_of_next_or_fault ((execLdBcd_cases x s).imp_left exists_prop.mpr)
      fun hb => sameBytesOutside_storeBytes (bcdDigits_length (s.reg x)) hb 2
  case storeRegs x =>
    exact nextSatisfies_of_next_or_fault ((execStoreRegs_cases x s).imp_left exists_prop.mpr)
      fun hb => sameBytesOutside_storeBytes (s.regsUpTo_length x) hb 2
  all_goals exact fun t h => sameBytesOutside_of_sameMem (exec_sameMem rfl t h)

/-- Settles O45: the two storing instructions store as many bytes as the table gives them, and no other instruction
writes memory. -/
theorem memoryWrittenByStoresOnly : Obligations.MemoryWrittenByStoresOnly := by
  unfold Obligations.MemoryWrittenByStoresOnly
  exact fun i s t a h ha => exec_sameBytesOutside i s t h a ha

end Sys2Proof.Machine
end

section
/-! ## The decoder's rows (30_encoding.md)

No two rows of the opcode map share a word, so the order in which they are tried is immaterial (R77); and the words that
select a row are those the table of R78 does not name. -/

namespace Sys2Proof

/-! ### At most one row -/

/-- The patterns of two rows differ on the bits that both rows test. -/
def OpRow.Excludes (r r' : OpRow) : Prop := r.pattern &&& r'.mask ≠ r'.pattern &&& r.mask

theorem OpRow.Excludes.symm {r r' : OpRow} (h : r.Excludes r') : r'.Excludes r := Ne.symm h

/-- No word selects two rows that exclude each other: on the bits both test it would agree with both patterns. -/
theorem OpRow.Excludes.not_both {r r' : OpRow} {w : Word} (h : r.Excludes r') (hr : r.selects w = true) :
    r'.selects w ≠ true := by
  intro hr'
  simp only [OpRow.selects, beq_iff_eq] at hr hr'
  refine h ?_
  rw [← hr, ← hr', BitVec.and_assoc, BitVec.and_assoc, BitVec.and_comm r.mask]

theorem opTable_pairwise_excludes : opTable.Pairwise OpRow.Excludes := by
  unfold OpRow.Excludes
  decide

/-- A word selects at most one of the 34 rows (R77). -/
theorem selected_subsingleton (w : Word) : {r | r ∈ opTable ∧ r.selects w = true}.Subsingleton := by
  rintro r ⟨hmem, hr⟩ r' ⟨hmem', hr'⟩
  by_contra hne
  have : Std.Symm OpRow.Excludes := ⟨fun _ _ => OpRow.Excludes.symm⟩
  exact (opTable_pairwise_excludes.forall hmem hmem' hne).not_both hr hr'

/-- Settles O4: as at most one row is selected, the first selected row is the same in every permutation. -/
theorem rowOrderIsImmaterial : Obligations.RowOrderIsImmaterial := by
  unfold Obligations.RowOrderIsImmaterial
  intro rows w hperm
  rw [decode, decodeBy, decodeBy, List.find?_eq_find?_of_perm hperm.symm (selected_subsingleton w)]

/-! ### Which words select a row -/

/-- The value of a masked word, taken apart into its leading nibble and the rest. -/
theorem nibble_add_eq_iff {a b p : Nat} (hb : b < 4096) : a * 4096 + b = p ↔ a = p / 4096 ∧ b = p % 4096 := by
  omega

/-- The words of format L. -/
theorem any_rowsL (w : Word) : (rowsL.any fun r => r.selects w) = true ↔
    w.toNat / 4096 = 0 ∧ (w.toNat = 0x00E0 ∨ w.toNat = 0x00EE) := by
  simp [rowsL, selects_FFFF]
  omega

/-- The words of format X. -/
theorem any_rowsX (w : Word) : (rowsX.any fun r => r.selects w) = true ↔
    (w.toNat / 4096 = 14 ∧ w.toNat % 256 ∈ [0x9E, 0xA1]) ∨
    (w.toNat / 4096 = 15 ∧ w.toNat % 256 ∈ [0x07, 0x0A, 0x15, 0x18, 0x1E, 0x29, 0x33, 0x55, 0x65]) := by
  simp (disch := omega) [rowsX, selects_F0FF, nibble_add_eq_iff, and_or_left, or_assoc]

/-- The words of format R. -/
theorem any_rowsR (w : Word) : (rowsR.any fun r => r.selects w) = true ↔
    (w.toNat / 4096 = 5 ∧ w.toNat % 16 = 0) ∨
    (w.toNat / 4096 = 8 ∧ w.toNat % 16 ∈ [0, 1, 2, 3, 4, 5, 6, 7, 14]) ∨
    (w.toNat / 4096 = 9 ∧ w.toNat % 16 = 0) := by
  simp (disch := omega) [rowsR, selects_F00F, nibble_add_eq_iff, and_or_left, or_assoc]

/-- The last nibbles of format R under the leading nibble 8, as the table of R78 gives them. -/
theorem mem_aluCodes (n : Nat) : n ∈ [0, 1, 2, 3, 4, 5, 6, 7, 14] ↔ n ≤ 7 ∨ n = 14 := by
  simp only [List.mem_cons, List.not_mem_nil, or_false]
  omega

/-- The words of formats A, K and D. -/
theorem any_rowsAKD (w : Word) : (rowsAKD.any fun r => r.selects w) = true ↔
    w.toNat / 4096 ∈ [1, 2, 3, 4, 6, 7, 10, 11, 12, 13] := by
  simp [rowsAKD, selects_F000]
  omega

/-- The 34 rows select the words that the table of R78 does not name: under each leading nibble the rows test what the
table says of that nibble. -/
theorem any_opTable (w : Word) : (opTable.any fun r => r.selects w) = true ↔ wellFormedWord w = true := by
  have hlt : w.toNat / 4096 < 16 := by omega
  simp only [opTable, List.any_append, Bool.or_eq_true, any_rowsL, any_rowsX, any_rowsR, any_rowsAKD,
    mem_aluCodes, wellFormedWord_iff]
  interval_cases w.toNat / 4096 <;> simp

theorem find_opTable_isSome (w : Word) : (opTable.find? fun r => r.selects w).isSome = wellFormedWord w := by
  rw [List.isSome_find?, Bool.eq_iff_iff, any_opTable]

/-- Settles O5: a word decodes when the decoder finds a row, and it finds one for the words that the check passes. -/
theorem unrecognisedWordsAreTheTable : Obligations.UnrecognisedWordsAreTheTable := by
  unfold Obligations.UnrecognisedWordsAreTheTable
  intro w
  rw [← find_opTable_isSome]
  cases h : opTable.find? fun r => r.selects w with
  | none => exact ⟨nofun, fun _ => decode_of_none h⟩
  | some r => exact ⟨fun _ => ⟨_, decode_of_find h⟩, nofun⟩

end Sys2Proof

namespace Sys2Proof.Machine

/-! ### A step on an unrecognised word -/

/-- A fetch inside memory reads the word at pc (R57). -/
theorem State.fetch_eq_wordAtPc {s : State} (h : s.pc.toNat < 4095) : s.fetch = .ok s.wordAtPc := by
  rw [s.fetch_of_lt h, State.wordAtPc, ← toNat_append_byte, BitVec.ofNat_toNat, BitVec.setWidth_eq]

/-- A cycle on a word that the table of R78 names ends in the case for words that select no row (R79). -/
theorem cycle_of_unrecognised {s : State} (ex : Instr → State → Result) (hpc : s.pc.toNat < 4095)
    (hw : wellFormedWord s.wordAtPc = false) : cycle ex s = unrecognised s.wordAtPc s := by
  simp only [cycle, State.fetch_eq_wordAtPc hpc, (unrecognisedWordsAreTheTable s.wordAtPc).2 hw]

/-- A cycle whose decoding fails faults, whatever executes the instruction (R78, R79). -/
theorem cycle_of_failsDecode {s : State} (ex : Instr → State → Result) (hpc : s.pc.toNat < 4095)
    (h : s.failsDecode) : cycle ex s = .fault (.decodeFail s.wordAtPc) := by
  obtain ⟨hw, hnop⟩ := h
  rw [cycle_of_unrecognised ex hpc hw]
  rcases unrecognised_cases s.wordAtPc s with ⟨hpol, hlt, -⟩ | ⟨-, e⟩
  · exact absurd ⟨hpol, hlt⟩ hnop
  · exact e

/-- A cycle on a word 0x0NNN that is no literal only advances pc where `SYS_POLICY` is nop (R79). -/
theorem cycle_of_sysWord_nop {s : State} (ex : Instr → State → Result) (hpc : s.pc.toNat < 4095)
    (hw : wellFormedWord s.wordAtPc = false) (hlt : s.wordAtPc.toNat < 0x1000) (hpol : s.params.sysPolicy = .nop) :
    cycle ex s = .next (s.advance 2) := by
  rw [cycle_of_unrecognised ex hpc hw]
  rcases unrecognised_cases s.wordAtPc s with ⟨-, -, e⟩ | ⟨hnot, -⟩
  · exact e
  · exact absurd ⟨hpol, hlt⟩ hnot

/-- STEP answers OK with the next state of the step (R221). -/
theorem operate_step_of_next {s t : State} {r : Byte} (h : stepWith r s = .next t) :
    operate s (.step r) = (.ok, t) := by
  rw [operate, h]

/-- Settles O10: the fault is that of the cycle, for the model's own step and for STEP with any byte. -/
theorem decodeFailureChangesNothing : Obligations.DecodeFailureChangesNothing := by
  unfold Obligations.DecodeFailureChangesNothing
  exact fun s r hpc h =>
    ⟨cycle_of_failsDecode exec hpc h, operate_step_of_fault (cycle_of_failsDecode (execWith r) hpc h)⟩

/-- The table of R78 names every word 0x0NNN except the two literals. -/
theorem wellFormedWord_sysWord {w : Word} (hlt : w.toNat < 0x1000) (hcls : w ≠ 0x00E0#16) (hret : w ≠ 0x00EE#16) :
    wellFormedWord w = false := by
  simp [wellFormedWord, Nat.div_eq_of_lt hlt, hcls, hret]

theorem sameBeyondRegs_advance (s : State) (d : Word) : sameBeyondRegs s (s.advance d) :=
  ⟨rfl, fun _ => rfl, ⟨rfl, rfl⟩, fun _ _ => rfl, ⟨rfl, rfl⟩, rfl, rfl⟩

/-- Settles O6: under fail such a word fails the decoder, as in O10; under nop the next state differs in pc alone. -/
theorem sysWordsFailOrAdvance : Obligations.SysWordsFailOrAdvance := by
  unfold Obligations.SysWordsFailOrAdvance
  intro s r hpc hlt hcls hret
  have hw := wellFormedWord_sysWord hlt hcls hret
  refine ⟨(unrecognisedWordsAreTheTable _).2 hw, fun hfail => ?_, fun hnop => ?_⟩
  · exact decodeFailureChangesNothing s r hpc ⟨hw, by simp [hfail]⟩
  · exact ⟨s.advance 2, cycle_of_sysWord_nop exec hpc hw hlt hnop,
      operate_step_of_next (cycle_of_sysWord_nop (execWith r) hpc hw hlt hnop), s.advance_pc 2,
      fun _ => rfl, sameBeyondRegs_advance s 2⟩

end Sys2Proof.Machine
end

section
/-! ## The cycle (40_cycle.md)

A cycle is the execution of the decoded instruction, so two ways to execute that agree on it give the same step. Which
fault a cycle raises is in the tables, and nothing that STEP, TICK, KEY or DISPLAY can change after a fault enters
them. The fields that KEY and TICK write are read or written by six instructions alone: every other instruction
commutes with setting them. -/

namespace Sys2Proof.Machine

/-! ### The execution inside a cycle -/

theorem cycle_of_decode {s : State} {i : Instr} (ex : Instr → State → Result) (hpc : s.pc.toNat < 4095)
    (hd : decode s.wordAtPc = .ok i) : cycle ex s = ex i s := by
  simp only [cycle, State.fetch_eq_wordAtPc hpc, hd]

theorem cycle_of_decode_error {s : State} {e : Reject} (ex : Instr → State → Result) (hpc : s.pc.toNat < 4095)
    (hd : decode s.wordAtPc = .error e) : cycle ex s = unrecognised s.wordAtPc s := by
  simp only [cycle, State.fetch_eq_wordAtPc hpc, hd]

/-- Settles O8: both steps are cycles. -/
theorem stepRunsDecodedInstruction : Obligations.StepRunsDecodedInstruction := by
  unfold Obligations.StepRunsDecodedInstruction
  exact fun s i hpc hd => ⟨cycle_of_decode exec hpc hd, fun r => cycle_of_decode (execWith r) hpc hd⟩

/-- Two ways to execute that agree on the decoded instruction give the same cycle. -/
theorem cycle_congr {ex ex' : Instr → State → Result} {s : State}
    (h : ∀ i, decode s.wordAtPc = .ok i → ex i s = ex' i s) : cycle ex s = cycle ex' s := by
  rcases Nat.lt_or_ge s.pc.toNat 4095 with hpc | hpc
  · cases hd : decode s.wordAtPc with
    | ok i => rw [cycle_of_decode ex hpc hd, cycle_of_decode ex' hpc hd, h i hd]
    | error e => rw [cycle_of_decode_error ex hpc hd, cycle_of_decode_error ex' hpc hd]
  · rw [cycle_of_pc_outside ex hpc, cycle_of_pc_outside ex' hpc]

/-! ### The random byte -/

theorem execWith_of_ne_rnd {i : Instr} (h : ∀ x kk, i ≠ .rnd x kk) (r : Byte) (s : State) :
    execWith r i s = exec i s := by
  rcases execWith_cases r i s with ⟨x, kk, rfl, -⟩ | ⟨-, e⟩
  · exact absurd rfl (h x kk)
  · exact e

/-- `exec` takes the byte of the current draw (log entry 1). -/
theorem exec_eq_execWith_rndByte (i : Instr) (s : State) : exec i s = execWith (Config.rndByte s.rndDraws) i s := by
  rcases execWith_cases (Config.rndByte s.rndDraws) i s with ⟨x, kk, rfl, e⟩ | ⟨-, e⟩ <;> rw [e]
  rfl

/-- Settles O16: on every instruction but RND the two bytes give the same execution. -/
theorem randomByteMattersToRndAlone : Obligations.RandomByteMattersToRndAlone := by
  unfold Obligations.RandomByteMattersToRndAlone
  refine ⟨fun s => cycle_congr fun i _ => exec_eq_execWith_rndByte i s, fun s r r' hrnd => cycle_congr fun i hd => ?_⟩
  have hi : ∀ x kk, i ≠ .rnd x kk := by
    rintro x kk rfl
    exact hrnd x kk hd
  rw [execWith_of_ne_rnd hi, execWith_of_ne_rnd hi]

/-! ### Which fault a step raises -/

theorem exec_eq_fault_iff {i : Instr} {s : State} {f : Fault} : exec i s = .fault f ↔ faultOf i s = some f := by
  generalize hr : exec i s = r
  cases hr ▸ exec_followsTables i s with
  | completes noFault _ => simp [noFault]
  | faults fault => simp [fault]

theorem execWith_eq_fault_iff {r : Byte} {i : Instr} {s : State} {f : Fault} :
    execWith r i s = .fault f ↔ faultOf i s = some f := by
  rcases execWith_cases r i s with ⟨x, kk, rfl, e⟩ | ⟨-, e⟩ <;> rw [e]
  · exact ⟨nofun, nofun⟩
  · exact exec_eq_fault_iff

/-- The decoding fails the step exactly on the words that `failsDecode` names (R78, R79). -/
theorem unrecognised_eq_fault_iff {s : State} {f : Fault} (hw : wellFormedWord s.wordAtPc = false) :
    unrecognised s.wordAtPc s = .fault f ↔ s.failsDecode ∧ f = .decodeFail s.wordAtPc := by
  rcases unrecognised_cases s.wordAtPc s with ⟨hpol, hlt, e⟩ | ⟨hnot, e⟩ <;> rw [e]
  · exact ⟨nofun, fun ⟨⟨_, hfail⟩, _⟩ => absurd ⟨hpol, hlt⟩ hfail⟩
  · have hfail : s.failsDecode := ⟨hw, hnot⟩
    simp [hfail, eq_comm]

/-- The fault of a step by the tables: the fetch's, then the decoder's, then the instruction's own (R222, R223). -/
def FaultsByTable (s : State) (f : Fault) : Prop :=
  (4095 ≤ s.pc.toNat ∧ f = .fetchBounds s.pc) ∨
  (s.pc.toNat < 4095 ∧ s.failsDecode ∧ f = .decodeFail s.wordAtPc) ∨
  (s.pc.toNat < 4095 ∧ ∃ i, decode s.wordAtPc = .ok i ∧ faultOf i s = some f)

/-- A cycle whose execution faults by the table of R222 faults by the tables, in the order of R223. -/
theorem cycle_eq_fault_iff {ex : Instr → State → Result} {s : State} {f : Fault}
    (hex : ∀ i, ex i s = .fault f ↔ faultOf i s = some f) : cycle ex s = .fault f ↔ FaultsByTable s f := by
  unfold FaultsByTable
  rcases Nat.lt_or_ge s.pc.toNat 4095 with hpc | hpc
  · cases hw : wellFormedWord s.wordAtPc with
    | true =>
      obtain ⟨i, hd⟩ := (unrecognisedWordsAreTheTable s.wordAtPc).1 hw
      rw [cycle_of_decode ex hpc hd, hex i]
      simp [hpc, Nat.not_le.mpr hpc, State.failsDecode, hw, hd]
    | false =>
      rw [cycle_of_unrecognised ex hpc hw, unrecognised_eq_fault_iff hw]
      simp [hpc, Nat.not_le.mpr hpc, (unrecognisedWordsAreTheTable s.wordAtPc).2 hw]
  · rw [cycle_of_pc_outside ex hpc]
    simp [hpc, Nat.not_lt.mpr hpc, eq_comm]

theorem step_eq_fault_iff {s : State} {f : Fault} : step s = .fault f ↔ FaultsByTable s f :=
  cycle_eq_fault_iff fun _ => exec_eq_fault_iff

theorem stepWith_eq_fault_iff {r : Byte} {s : State} {f : Fault} : stepWith r s = .fault f ↔ FaultsByTable s f :=
  cycle_eq_fault_iff fun _ => execWith_eq_fault_iff

/-! ### The fields that KEY and TICK write -/

/-- `s` with other key flags, latch and timers: what KEY (R233) and TICK (R230) can change. -/
def State.withInputs (s : State) (key : Vector Bool 16) (latch : Option Nibble) (dt st : Byte) : State :=
  { s with key := key, latch := latch, dt := dt, st := st }

theorem State.tick_eq_withInputs (s : State) :
    s.tick.2 = s.withInputs s.key s.latch (countDown s.dt) (countDown s.st) := rfl

theorem State.keyEvent_eq_withInputs (s : State) (k : Nibble) (pressed : Bool) :
    s.keyEvent k pressed =
      s.withInputs (s.key.set k.toNat pressed k.isLt) (if pressed then some k else s.latch) s.dt s.st := by
  cases pressed <;> rfl

/-! ### A fault lasts until RESET or LOAD -/

/-- No table of faults reads the key flags, the latch or a timer. -/
theorem faultsByTable_withInputs {s : State} {f : Fault} (h : FaultsByTable s f) (key : Vector Bool 16)
    (latch : Option Nibble) (dt st : Byte) : FaultsByTable (s.withInputs key latch dt st) f := h

theorem operate_keeps_faultsByTable {s : State} {f : Fault} {op : Operation}
    (hop : op ≠ .reset ∧ ∀ bytes, op ≠ .load bytes) (h : FaultsByTable s f) : FaultsByTable (operate s op).2 f := by
  obtain ⟨hreset, hload⟩ := hop
  cases op with
  | reset => exact absurd rfl hreset
  | load bytes => exact absurd rfl (hload bytes)
  | step r => rwa [operate_step_of_fault (stepWith_eq_fault_iff.mpr h)]
  | tick => exact faultsByTable_withInputs h _ _ _ _
  | key k pressed =>
    simp only [operate]
    split
    · rw [State.keyEvent_eq_withInputs]
      exact faultsByTable_withInputs h _ _ _ _
    · exact h
  | display => exact h

/-- What each operation of a sequence keeps, the sequence keeps (R232). -/
theorem runOps_keeps_of_forall_mem {P : State → Prop} {ops : List Operation} {s : State}
    (hop : ∀ op ∈ ops, ∀ t, P t → P (operate t op).2) (hs : P s) : P (runOps s ops).2 := by
  induction ops generalizing s with
  | nil => exact hs
  | cons op ops ih =>
    obtain ⟨hhead, htail⟩ := List.forall_mem_cons.mp hop
    exact ih htail (hhead s hs)

/-- Settles O15: the tables that name the fault name it in every later state too. -/
theorem faultRepeatsUntilResetOrLoad : Obligations.FaultRepeatsUntilResetOrLoad := by
  unfold Obligations.FaultRepeatsUntilResetOrLoad
  intro s f ops r h hops
  have hlast : FaultsByTable (runOps s ops).2 f :=
    runOps_keeps_of_forall_mem (P := (FaultsByTable · f))
      (fun op hop _ => operate_keeps_faultsByTable (hops op hop)) (step_eq_fault_iff.mp h)
  rw [operate_step_of_fault (stepWith_eq_fault_iff.mpr hlast)]

/-! ### Instructions that use the keypad or a timer -/

/-- The instructions that read or write a key flag, the latch or a timer (45_keypad_timers.md). -/
def usesInputs : Instr → Bool
  | .skp _ | .sknp _ | .ldKey _ | .ldFromDt _ | .ldDt _ | .ldSt _ => true
  | _ => false

/-- The outcome with its next state changed by `g`. -/
def mapNext (g : State → State) : Result → Result
  | .next t => .next (g t)
  | .fault f => .fault f
  | .refused e => .refused e

section
variable (s : State) (key : Vector Bool 16) (latch : Option Nibble) (dt st : Byte)

theorem State.withData_withInputs (n : Nat) {k k' : Result} (hk : k' = mapNext (·.withInputs key latch dt st) k) :
    (s.withInputs key latch dt st).withData n k' = mapNext (·.withInputs key latch dt st) (s.withData n k) := by
  subst hk
  rcases s.withData_cases n k with ⟨h0, h, e⟩ | ⟨h, e⟩ <;> rw [e]
  · exact if_pos ⟨h0, h⟩
  · exact if_neg h

theorem State.fillRegs_withInputs (bytes : Nat → Byte) (a n : Nat) :
    (s.withInputs key latch dt st).fillRegs bytes a n = (s.fillRegs bytes a n).withInputs key latch dt st := by
  induction n with
  | zero => rfl
  | succ n ih => exact congrArg (State.setReg · _ _) ih

theorem execRet_withInputs :
    execRet (s.withInputs key latch dt st) = mapNext (·.withInputs key latch dt st) (execRet s) := by
  rcases execRet_cases s with ⟨h, e⟩ | ⟨h, e⟩ <;>
    rcases execRet_cases (s.withInputs key latch dt st) with ⟨h', e'⟩ | ⟨h', e'⟩
  · rw [e, e']
    rfl
  · exact absurd h' h
  · exact absurd h h'
  · rw [e, e']
    rfl

theorem execCall_withInputs (nnn : Addr) :
    execCall nnn (s.withInputs key latch dt st) = mapNext (·.withInputs key latch dt st) (execCall nnn s) := by
  rcases execCall_cases nnn s with ⟨h, e⟩ | ⟨h, e⟩ <;>
    rcases execCall_cases nnn (s.withInputs key latch dt st) with ⟨h', e'⟩ | ⟨h', e'⟩
  · rw [e, e']
    rfl
  · exact absurd h' (Nat.ne_of_lt h)
  · exact absurd h (Nat.ne_of_lt h')
  · rw [e, e']
    rfl

/-- An instruction that uses none of these fields does the same whatever they hold, and leaves them. -/
theorem exec_withInputs {i : Instr} (hi : usesInputs i = false) :
    exec i (s.withInputs key latch dt st) = mapNext (·.withInputs key latch dt st) (exec i s) := by
  cases i
  case skp | sknp | ldKey | ldFromDt | ldDt | ldSt => cases hi
  case ret => exact execRet_withInputs s key latch dt st
  case call nnn => exact execCall_withInputs s key latch dt st nnn
  case drw x y n => exact s.withData_withInputs key latch dt st n.toNat rfl
  case ldBcd x => exact s.withData_withInputs key latch dt st 3 rfl
  case storeRegs x => exact s.withData_withInputs key latch dt st (x.toNat + 1) rfl
  case loadRegs x =>
    simp only [exec, execLoadRegs, State.fillRegs_withInputs]
    exact s.withData_withInputs key latch dt st (x.toNat + 1) rfl
  all_goals rfl

end

/-- Such an instruction keeps these fields: setting them to what they are changes nothing before it, so nothing
after it. -/
theorem inputs_of_exec {i : Instr} {s t : State} (hi : usesInputs i = false) (h : exec i s = .next t) :
    t.key = s.key ∧ t.latch = s.latch ∧ t.dt = s.dt ∧ t.st = s.st := by
  have e : exec i s = mapNext (·.withInputs s.key s.latch s.dt s.st) (exec i s) :=
    exec_withInputs s s.key s.latch s.dt s.st hi
  rw [h] at e
  have ht : t = t.withInputs s.key s.latch s.dt s.st := Host.Outcome.next.inj e
  rw [ht]
  exact ⟨rfl, rfl, rfl, rfl⟩

/-- Settles O48: of the six instructions that use these fields three write one, and the others leave them all. -/
theorem keypadAndTimerWriters : Obligations.KeypadAndTimerWriters := by
  unfold Obligations.KeypadAndTimerWriters
  intro i s t h
  cases hi : usesInputs i with
  | false =>
    obtain ⟨hkey, hlatch, hdt, hst⟩ := inputs_of_exec hi h
    exact ⟨hkey, fun _ => hlatch, fun _ => hdt, fun _ => hst⟩
  | true =>
    cases i
    case skp x =>
      rcases execSkp_cases x s with ⟨_, e⟩ | ⟨-, e⟩ <;> cases h.symm.trans e
      exact ⟨rfl, fun _ => rfl, fun _ => rfl, fun _ => rfl⟩
    case sknp x =>
      rcases execSknp_cases x s with ⟨_, e⟩ | ⟨-, e⟩ <;> cases h.symm.trans e
      exact ⟨rfl, fun _ => rfl, fun _ => rfl, fun _ => rfl⟩
    case ldKey x =>
      rcases execLdKey_cases x s with ⟨-, e⟩ | ⟨k, -, e⟩ <;> cases h.symm.trans e
      · exact ⟨rfl, fun _ => rfl, fun _ => rfl, fun _ => rfl⟩
      · exact ⟨rfl, fun hne => absurd rfl (hne x), fun _ => rfl, fun _ => rfl⟩
    case ldFromDt x =>
      cases h
      exact ⟨rfl, fun _ => rfl, fun _ => rfl, fun _ => rfl⟩
    case ldDt x =>
      cases h
      exact ⟨rfl, fun _ => rfl, fun hne => absurd rfl (hne x), fun _ => rfl⟩
    case ldSt x =>
      cases h
      exact ⟨rfl, fun _ => rfl, fun _ => rfl, fun hne => absurd rfl (hne x)⟩
    all_goals cases hi

/-- Settles O17: an instruction that uses neither keypad nor timer does the same whatever they hold, here with the
timers set to what they are; the three that use a timer alone do not look at the keypad. -/
theorem keypadMattersToKeypadInstructionsAlone : Obligations.KeypadMattersToKeypadInstructionsAlone := by
  unfold Obligations.KeypadMattersToKeypadInstructionsAlone
  intro i s key latch hskp hsknp hldKey
  cases hi : usesInputs i with
  | false =>
    have e := exec_withInputs s key latch s.dt s.st hi
    refine ⟨fun t h => ?_, fun f h => ?_⟩ <;> rw [h] at e
    · obtain ⟨-, -, hdt, hst⟩ := inputs_of_exec hi h
      have ht : t.withInputs key latch s.dt s.st = { t with key := key, latch := latch } := by
        rw [← hdt, ← hst]
        rfl
      exact e.trans (congrArg _ ht)
    · exact e
  | true =>
    cases i
    case skp x => exact absurd rfl (hskp x)
    case sknp x => exact absurd rfl (hsknp x)
    case ldKey x => exact absurd rfl (hldKey x)
    case ldFromDt | ldDt | ldSt =>
      refine ⟨fun t h => ?_, nofun⟩
      cases h
      rfl
    all_goals cases hi

end Sys2Proof.Machine
end

section
/-! ## Control transfer (41_flow.md)

A word written as the pattern of a row decodes to what that row builds, as no other row is selected (R77). The jumps and
skips change pc alone; CALL and RET change pc, the stack and its pointer, and RET reads the slot that CALL wrote. -/

namespace Sys2Proof

/-! ### Decoding a word written as its pattern -/

/-- Any row of the opcode map that a word selects is the first one it selects (R77). -/
theorem decode_of_selects {r : OpRow} {w : Word} (hr : r ∈ opTable) (h : r.selects w = true) :
    decode w = .ok (r.build w) := by
  cases hfind : opTable.find? fun r => r.selects w with
  | none => exact absurd h (List.find?_eq_none.mp hfind r hr)
  | some r' =>
    have hr' : r'.selects w = true := List.find?_some (p := fun r : OpRow => r.selects w) hfind
    rw [decode_of_find hfind, selected_subsingleton w ⟨List.mem_of_find?_eq_some hfind, hr'⟩ ⟨hr, h⟩]

/-- A word of format A whose pattern is in the opcode map (R72, R76). -/
theorem decode_pattern_nnn {op : Nibble} {build : Addr → Instr}
    (hrow : ⟨0xF000#16, op ++ 0#12, fun w => build (Word.nnn w)⟩ ∈ opTable) (nnn : Addr) :
    decode (op ++ nnn) = .ok (build nnn) := by
  refine (decode_of_selects hrow ?_).trans ?_
  · rw [selects_F000, toNat_pattern_nnn, toNat_pattern_nnn, BitVec.toNat_ofNat]
    exact decide_eq_true (by omega)
  · simp only [Word.nnn_pattern]

/-- A word of format K whose pattern is in the opcode map (R72, R76). -/
theorem decode_pattern_xkk {op : Nibble} {build : Nibble → Byte → Instr}
    (hrow : ⟨0xF000#16, op ++ 0#12, fun w => build (Word.x w) (Word.kk w)⟩ ∈ opTable) (x : Nibble) (kk : Byte) :
    decode (op ++ x ++ kk) = .ok (build x kk) := by
  refine (decode_of_selects hrow ?_).trans ?_
  · rw [selects_F000, toNat_pattern_xkk, toNat_pattern_nnn, BitVec.toNat_ofNat]
    exact decide_eq_true (by omega)
  · simp only [Word.x_pattern_xkk, Word.kk_pattern_xkk]

/-- A word of format R whose pattern is in the opcode map (R72, R76). -/
theorem decode_pattern_xyn {op n : Nibble} {build : Nibble → Nibble → Instr}
    (hrow : ⟨0xF00F#16, op ++ 0#4 ++ 0#4 ++ n, fun w => build (Word.x w) (Word.y w)⟩ ∈ opTable) (x y : Nibble) :
    decode (op ++ x ++ y ++ n) = .ok (build x y) := by
  refine (decode_of_selects hrow ?_).trans ?_
  · rw [selects_F00F, toNat_pattern_xyn, toNat_pattern_xyn, BitVec.toNat_ofNat]
    exact decide_eq_true (by omega)
  · simp only [Word.x_pattern_xyn, Word.y_pattern_xyn]

theorem decode_jp (nnn : Addr) : decode (0x1#4 ++ nnn) = .ok (.jp nnn) :=
  decode_pattern_nnn (by simp [opTable, rowsAKD]) nnn

theorem decode_call (nnn : Addr) : decode (0x2#4 ++ nnn) = .ok (.call nnn) :=
  decode_pattern_nnn (by simp [opTable, rowsAKD]) nnn

theorem decode_jpV0 (nnn : Addr) : decode (0xB#4 ++ nnn) = .ok (.jpV0 nnn) :=
  decode_pattern_nnn (by simp [opTable, rowsAKD]) nnn

theorem decode_seByte (x : Nibble) (kk : Byte) : decode (0x3#4 ++ x ++ kk) = .ok (.seByte x kk) :=
  decode_pattern_xkk (by simp [opTable, rowsAKD]) x kk

theorem decode_sneByte (x : Nibble) (kk : Byte) : decode (0x4#4 ++ x ++ kk) = .ok (.sneByte x kk) :=
  decode_pattern_xkk (by simp [opTable, rowsAKD]) x kk

theorem decode_seReg (x y : Nibble) : decode (0x5#4 ++ x ++ y ++ 0x0#4) = .ok (.seReg x y) :=
  decode_pattern_xyn (by simp [opTable, rowsR]) x y

theorem decode_sneReg (x y : Nibble) : decode (0x9#4 ++ x ++ y ++ 0x0#4) = .ok (.sneReg x y) :=
  decode_pattern_xyn (by simp [opTable, rowsR]) x y

end Sys2Proof

namespace Sys2Proof.Machine

/-! ### Moving pc alone -/

theorem sameRegs_jump (s : State) (w : Word) : sameRegs s (s.jump w) := s.reg_jump w

theorem sameBeyondRegs_jump (s : State) (w : Word) : sameBeyondRegs s (s.jump w) :=
  ⟨rfl, fun _ => rfl, ⟨rfl, rfl⟩, fun _ _ => rfl, ⟨rfl, rfl⟩, rfl, rfl⟩

theorem toNat_addrWord (nnn : Addr) : (addrWord nnn).toNat = nnn.toNat :=
  BitVec.toNat_setWidth_of_le (by decide)

/-- The target of JP V0 (R127). -/
theorem toNat_add_byteWord (w : Word) (b : Byte) : (w + byteWord b).toNat = (w.toNat + b.toNat) % 65536 := by
  rw [add_byteWord_eq_ofNat, BitVec.toNat_ofNat]

/-- Settles O19: both jumps are one move of pc. -/
theorem jumpsSetPc : Obligations.JumpsSetPc := by
  unfold Obligations.JumpsSetPc
  exact fun nnn s => ⟨decode_jp nnn, decode_jpV0 nnn,
    ⟨_, rfl, toNat_addrWord nnn, sameRegs_jump s _, sameBeyondRegs_jump s _⟩,
    ⟨_, rfl, toNat_add_byteWord s.i (s.reg 0), sameRegs_jump s _, sameBeyondRegs_jump s _⟩⟩

/-- A skip on inequality, in the spelling of R124 and R126. -/
theorem State.skipIf_bne_pc_of_ne (s : State) (a b : Byte) :
    (s.skipIf (a != b)).pc = if a ≠ b then s.pc + 4 else s.pc + 2 := by
  rw [State.skipIf_bne_pc, ite_not]

/-- Settles O23: a skip is one move of pc, by 4 or by 2. -/
theorem skipsOnByte : Obligations.SkipsOnByte := by
  unfold Obligations.SkipsOnByte
  exact fun x kk s => ⟨decode_seByte x kk, decode_sneByte x kk,
    ⟨_, rfl, s.skipIf_beq_pc (s.reg x) kk, sameRegs_jump s _, sameBeyondRegs_jump s _⟩,
    ⟨_, rfl, s.skipIf_bne_pc_of_ne (s.reg x) kk, sameRegs_jump s _, sameBeyondRegs_jump s _⟩⟩

/-- Settles O24: a skip is one move of pc, by 4 or by 2. -/
theorem skipsOnRegisters : Obligations.SkipsOnRegisters := by
  unfold Obligations.SkipsOnRegisters
  exact fun x y s => ⟨decode_seReg x y, decode_sneReg x y,
    ⟨_, rfl, s.skipIf_beq_pc (s.reg x) (s.reg y), sameRegs_jump s _, sameBeyondRegs_jump s _⟩,
    ⟨_, rfl, s.skipIf_bne_pc_of_ne (s.reg x) (s.reg y), sameRegs_jump s _, sameBeyondRegs_jump s _⟩⟩

/-! ### CALL and RET -/

theorem frameStack_jump (s : State) (stack : Vector Word 16) (sp : Fin 17) (w : Word) :
    frameStack s (({ s with stack := stack, sp := sp } : State).jump w) :=
  ⟨fun _ => rfl, rfl, fun _ => rfl, fun _ _ => rfl, ⟨rfl, rfl⟩, rfl, rfl⟩

/-- CALL with a free slot (R122). -/
theorem exec_call_of_sp_lt {s : State} (nnn : Addr) (h : s.sp.val < 16) : exec (.call nnn) s = .next
    (({ s with stack := s.stack.set s.sp.val s.pc h, sp := ⟨s.sp.val + 1, by omega⟩ } : State).jump
      (addrWord nnn)) := by
  rcases execCall_cases nnn s with ⟨_, e⟩ | ⟨hfull, -⟩
  · exact e
  · exact absurd hfull (Nat.ne_of_lt h)

/-- CALL with every slot in use (R122). -/
theorem exec_call_of_sp_eq {s : State} (nnn : Addr) (h : s.sp.val = 16) :
    exec (.call nnn) s = .fault .stackOverflow :=
  exec_eq_fault_iff.mpr (if_pos (Fin.ext h))

/-- RET with `k + 1` slots in use reads slot `k` (R120). -/
theorem exec_ret_of_sp_eq_succ {s : State} {k : Nat} (hk : k < 16) (h : s.sp.val = k + 1) : exec .ret s = .next
    (({ s with sp := ⟨k, by omega⟩ } : State).jump (s.stack[k] + 2)) := by
  obtain rfl : k = s.sp.val - 1 := by omega
  rcases execRet_cases s with ⟨_, e⟩ | ⟨hempty, -⟩
  · exact e
  · omega

/-- RET with no slot in use (R120). -/
theorem exec_ret_of_sp_eq_zero {s : State} (h : s.sp.val = 0) : exec .ret s = .fault .stackUnderflow :=
  exec_eq_fault_iff.mpr (if_pos (Fin.ext h))

/-- Settles O20: with a free slot CALL sets that slot, and with none the table of R222 names its fault. -/
theorem callPushesItsOwnAddress : Obligations.CallPushesItsOwnAddress := by
  unfold Obligations.CallPushesItsOwnAddress
  refine fun nnn s => ⟨decode_call nnn, fun h => ?_, exec_call_of_sp_eq nnn⟩
  refine ⟨_, exec_call_of_sp_lt nnn h, toNat_addrWord nnn, rfl, fun k hk => ?_, frameStack_jump s _ _ _⟩
  simp only [State.jump_stack, Vector.getElem_set, eq_comm]

/-- Settles O21: with a slot in use RET reads the newest, and with none the table of R222 names its fault. -/
theorem returnGoesPastTheCall : Obligations.ReturnGoesPastTheCall := by
  unfold Obligations.ReturnGoesPastTheCall
  refine fun s => ⟨rfl, fun k hk h => ?_, exec_ret_of_sp_eq_zero⟩
  exact ⟨_, exec_ret_of_sp_eq_succ hk h, rfl, BitVec.toNat_add _ _, rfl, frameStack_jump s s.stack _ _⟩

/-- Settles O22: the slot that RET reads is the one that CALL set. -/
theorem returnUndoesCall : Obligations.ReturnUndoesCall := by
  unfold Obligations.ReturnUndoesCall
  refine fun nnn s h => ⟨_, exec_call_of_sp_lt nnn h, fun t' ⟨hstack, hsp⟩ => ?_⟩
  have hsp' : t'.sp.val = s.sp.val + 1 := congrArg Fin.val hsp
  have hslot : t'.stack[s.sp.val] = s.pc := by
    simp only [hstack, State.jump_stack, Vector.getElem_set_self]
  exact ⟨_, exec_ret_of_sp_eq_succ h hsp', congrArg (· + 2) hslot, rfl⟩

end Sys2Proof.Machine
end

section
/-! ## Registers, arithmetic and random (42_alu.md)

An instruction of this family writes V[X], or V[X] and then VF, and moves pc by 2. What such an update reads back, and
that it leaves the rest, is said once; a statement adds what the written byte and the flag are. -/

namespace Sys2Proof

/-! ### The words of the family -/

theorem decode_ldByte (x : Nibble) (kk : Byte) : decode (0x6#4 ++ x ++ kk) = .ok (.ldByte x kk) :=
  decode_pattern_xkk (by simp [opTable, rowsAKD]) x kk

theorem decode_addByte (x : Nibble) (kk : Byte) : decode (0x7#4 ++ x ++ kk) = .ok (.addByte x kk) :=
  decode_pattern_xkk (by simp [opTable, rowsAKD]) x kk

theorem decode_rnd (x : Nibble) (kk : Byte) : decode (0xC#4 ++ x ++ kk) = .ok (.rnd x kk) :=
  decode_pattern_xkk (by simp [opTable, rowsAKD]) x kk

theorem decode_ldReg (x y : Nibble) : decode (0x8#4 ++ x ++ y ++ 0x0#4) = .ok (.ldReg x y) :=
  decode_pattern_xyn (by simp [opTable, rowsR]) x y

theorem decode_orReg (x y : Nibble) : decode (0x8#4 ++ x ++ y ++ 0x1#4) = .ok (.orReg x y) :=
  decode_pattern_xyn (by simp [opTable, rowsR]) x y

theorem decode_andReg (x y : Nibble) : decode (0x8#4 ++ x ++ y ++ 0x2#4) = .ok (.andReg x y) :=
  decode_pattern_xyn (by simp [opTable, rowsR]) x y

theorem decode_xorReg (x y : Nibble) : decode (0x8#4 ++ x ++ y ++ 0x3#4) = .ok (.xorReg x y) :=
  decode_pattern_xyn (by simp [opTable, rowsR]) x y

theorem decode_addReg (x y : Nibble) : decode (0x8#4 ++ x ++ y ++ 0x4#4) = .ok (.addReg x y) :=
  decode_pattern_xyn (by simp [opTable, rowsR]) x y

theorem decode_subReg (x y : Nibble) : decode (0x8#4 ++ x ++ y ++ 0x5#4) = .ok (.subReg x y) :=
  decode_pattern_xyn (by simp [opTable, rowsR]) x y

theorem decode_shr (x y : Nibble) : decode (0x8#4 ++ x ++ y ++ 0x6#4) = .ok (.shr x y) :=
  decode_pattern_xyn (by simp [opTable, rowsR]) x y

theorem decode_subnReg (x y : Nibble) : decode (0x8#4 ++ x ++ y ++ 0x7#4) = .ok (.subnReg x y) :=
  decode_pattern_xyn (by simp [opTable, rowsR]) x y

theorem decode_shl (x y : Nibble) : decode (0x8#4 ++ x ++ y ++ 0xE#4) = .ok (.shl x y) :=
  decode_pattern_xyn (by simp [opTable, rowsR]) x y

end Sys2Proof

namespace Sys2Proof.Machine

/-! ### Writing V[X] -/

theorem State.reg_setReg_self (s : State) (x : Nibble) (b : Byte) : (s.setReg x b).reg x = b := by
  rw [State.reg_setReg, if_pos rfl]

/-- New registers, pc and count of draws leave everything that the frames speak of beyond the registers. -/
theorem sameBeyondRegs_regs (s : State) (v : Vector Byte 16) (pc : Word) (draws : Nat) :
    sameBeyondRegs s { s with v := v, pc := pc, rndDraws := draws } :=
  ⟨rfl, fun _ => rfl, ⟨rfl, rfl⟩, fun _ _ => rfl, ⟨rfl, rfl⟩, rfl, rfl⟩

/-- The pc and the count of draws may change beside V[X], so that this is the frame of RND too. -/
theorem frameReg_setReg (s : State) (x : Nibble) (b : Byte) (pc : Word) (draws : Nat) :
    frameReg x s { s.setReg x b with pc := pc, rndDraws := draws } :=
  ⟨fun r hr => (s.reg_setReg x r b).trans (if_neg hr), sameBeyondRegs_regs s _ pc draws⟩

/-- Settles O25: each is one write of V[X]. -/
theorem byteLoadAndAdd : Obligations.ByteLoadAndAdd := by
  unfold Obligations.ByteLoadAndAdd
  intro x kk s
  have hsum : ((s.setReg x (s.reg x + kk)).reg x).toNat = ((s.reg x).toNat + kk.toNat) % 256 := by
    rw [State.reg_setReg_self, BitVec.toNat_add]
  exact ⟨decode_ldByte x kk, decode_addByte x kk,
    ⟨_, rfl, s.reg_setReg_self x kk, rfl, frameReg_setReg s x kk _ _⟩,
    ⟨_, rfl, hsum, rfl, frameReg_setReg s x _ _ _⟩⟩

/-- The bits of V[X] after a write are the bits of the written byte. -/
theorem State.getLsbD_reg_setReg_self {s : State} {x : Nibble} {b : Byte} {bit : Nat → Bool}
    (h : ∀ k, b.getLsbD k = bit k) (k : Nat) : ((s.setReg x b).reg x).getLsbD k = bit k := by
  rw [State.reg_setReg_self, h]

/-- Settles O26: each is one write of V[X]. -/
theorem moveAndLogic : Obligations.MoveAndLogic := by
  unfold Obligations.MoveAndLogic
  exact fun x y s => ⟨decode_ldReg x y, decode_orReg x y, decode_andReg x y, decode_xorReg x y,
    ⟨_, rfl, s.reg_setReg_self x _, rfl, frameReg_setReg s x _ _ _⟩,
    ⟨_, rfl, State.getLsbD_reg_setReg_self fun _ => BitVec.getLsbD_or, rfl, frameReg_setReg s x _ _ _⟩,
    ⟨_, rfl, State.getLsbD_reg_setReg_self fun _ => BitVec.getLsbD_and, rfl, frameReg_setReg s x _ _ _⟩,
    ⟨_, rfl, State.getLsbD_reg_setReg_self fun _ => BitVec.getLsbD_xor, rfl, frameReg_setReg s x _ _ _⟩⟩

/-- Settles O31: RND is one write of V[X] for any byte, and `exec` runs it with the byte of the current draw. -/
theorem randomIsMasked : Obligations.RandomIsMasked := by
  unfold Obligations.RandomIsMasked
  intro x kk s
  have hbits (r : Byte) : ∀ k, ((s.setReg x (r &&& kk)).reg x).getLsbD k = (r.getLsbD k && kk.getLsbD k) :=
    State.getLsbD_reg_setReg_self fun _ => BitVec.getLsbD_and
  exact ⟨decode_rnd x kk,
    fun r => ⟨_, rfl, hbits r, rfl, frameReg_setReg s x _ _ _⟩,
    _, Config.rndByte s.rndDraws, rfl, hbits _, rfl, frameReg_setReg s x _ _ _, rfl⟩

/-! ### Writing V[X] and then VF -/

/-- The flag is written last, so it is what VF holds, also when X is 15 (R276). -/
theorem State.reg_setRegFlag_flag (s : State) (x : Nibble) (b f : Byte) : (s.setRegFlag x b f).reg 15 = f := by
  rw [State.reg_setRegFlag, if_pos rfl]

theorem State.reg_setRegFlag_self (s : State) {x : Nibble} (b f : Byte) (hx : x ≠ 15) :
    (s.setRegFlag x b f).reg x = b := by
  rw [State.reg_setRegFlag, if_neg hx, if_pos rfl]

theorem frameRegFlag_setRegFlag (s : State) (x : Nibble) (b f : Byte) :
    frameRegFlag x s ((s.setRegFlag x b f).advance 2) := by
  refine ⟨fun r hx h15 => ?_, sameBeyondRegs_regs s _ _ _⟩
  rw [State.reg_advance, State.reg_setRegFlag, if_neg h15, if_neg hx]

/-- What an instruction that writes the byte `b` to V[X] and then the flag `f` to VF answers (R153). -/
theorem exists_next_setRegFlag {r : Result} {s : State} {x : Nibble} {b f : Byte}
    (e : r = .next ((s.setRegFlag x b f).advance 2)) :
    ∃ t, r = .next t ∧ t.reg 15 = f ∧ (x ≠ 15 → t.reg x = b) ∧ t.pc = s.pc + 2 ∧ frameRegFlag x s t :=
  ⟨_, e, s.reg_setRegFlag_flag x b f, s.reg_setRegFlag_self b f, rfl, frameRegFlag_setRegFlag s x b f⟩

/-! ### Carry and borrow -/

theorem flagByte_decide (p : Prop) [Decidable p] : flagByte (decide p) = if p then 1 else 0 := by
  simp only [flagByte, decide_eq_true_eq]

/-- The wrapped difference is the remainder of the integer difference (R147, R149). -/
theorem toNat_sub_eq_emod (a b : Byte) : ((a - b).toNat : Int) = ((a.toNat : Int) - b.toNat) % 256 := by
  rw [BitVec.toNat_sub]
  omega

/-- Settles O27: the flag is the carry, and the written byte the wrapped sum. -/
theorem addSetsCarry : Obligations.AddSetsCarry := by
  unfold Obligations.AddSetsCarry
  intro x y s
  obtain ⟨t, e, hflag, hreg, hpc, hframe⟩ := exists_next_setRegFlag (r := exec (.addReg x y) s) rfl
  refine ⟨decode_addReg x y, t, e, hflag.trans (flagByte_decide _), fun hx => ?_, hpc, hframe⟩
  rw [hreg hx, BitVec.toNat_add]

/-- What an instruction that subtracts `b` from `a` answers: SUB (R147), and SUBN with its operands swapped (R149). -/
theorem exists_next_sub {r : Result} {s : State} {x : Nibble} {a b : Byte}
    (e : r = .next ((s.setRegFlag x (a - b) (noBorrowFlag a b)).advance 2)) :
    ∃ t, r = .next t ∧ t.reg 15 = (if a.toNat > b.toNat then 1 else 0) ∧
      (x ≠ 15 → ((t.reg x).toNat : Int) = ((a.toNat : Int) - b.toNat) % 256) ∧
      t.pc = s.pc + 2 ∧ frameRegFlag x s t := by
  obtain ⟨t, e, hflag, hreg, hpc, hframe⟩ := exists_next_setRegFlag e
  refine ⟨t, e, hflag.trans (flagByte_decide _), fun hx => ?_, hpc, hframe⟩
  rw [hreg hx, toNat_sub_eq_emod]

/-- Settles O28: both subtract, with the operands in the two orders. -/
theorem subtractSetsNoBorrow : Obligations.SubtractSetsNoBorrow := by
  unfold Obligations.SubtractSetsNoBorrow
  exact fun x y s => ⟨decode_subReg x y, decode_subnReg x y, exists_next_sub rfl, exists_next_sub rfl⟩

/-! ### Shifts -/

theorem State.shiftSource_eq_reg (s : State) (x y : Nibble) : s.shiftSource x y = s.reg (shiftedReg s x y) := by
  unfold State.shiftSource shiftedReg
  cases s.params.shiftSrc <;> rfl

/-- A bit of a byte, as VF holds it. -/
theorem flagByte_getLsbD (a : Byte) (k : Nat) : flagByte (a.getLsbD k) = BitVec.ofNat 8 (a.toNat / 2 ^ k % 2) := by
  rw [← Nat.toNat_testBit, BitVec.testBit_toNat]
  cases a.getLsbD k <;> rfl

/-- Bit 0 (R148). -/
theorem shiftOutRight_eq_mod (a : Byte) : shiftOutRight a = BitVec.ofNat 8 (a.toNat % 2) := by
  rw [shiftOutRight, flagByte_getLsbD, pow_zero, Nat.div_one]

/-- Bit 7 is the highest, so the quotient by 128 is the bit (R150). -/
theorem shiftOutLeft_eq_div (a : Byte) : shiftOutLeft a = BitVec.ofNat 8 (a.toNat / 128) := by
  have hbit : a.toNat / 2 ^ 7 % 2 = a.toNat / 128 := by omega
  rw [shiftOutLeft, flagByte_getLsbD, hbit]

/-- Settles O29: the source of the shift is the register `SHIFT_SRC` names, and the flag its bit 0. -/
theorem shiftRightSetsBitOut : Obligations.ShiftRightSetsBitOut := by
  unfold Obligations.ShiftRightSetsBitOut
  intro x y s
  obtain ⟨t, e, hflag, hreg, hpc, hframe⟩ := exists_next_setRegFlag (r := exec (.shr x y) s) rfl
  rw [s.shiftSource_eq_reg x y] at hflag hreg
  refine ⟨decode_shr x y, t, e, hflag.trans (shiftOutRight_eq_mod _), fun hx => ?_, hpc, hframe⟩
  rw [hreg hx, BitVec.toNat_ushiftRight, Nat.shiftRight_eq_div_pow, pow_one]

/-- Settles O30: the source of the shift is the register `SHIFT_SRC` names, and the flag its bit 7. -/
theorem shiftLeftSetsBitOut : Obligations.ShiftLeftSetsBitOut := by
  unfold Obligations.ShiftLeftSetsBitOut
  intro x y s
  obtain ⟨t, e, hflag, hreg, hpc, hframe⟩ := exists_next_setRegFlag (r := exec (.shl x y) s) rfl
  rw [s.shiftSource_eq_reg x y] at hflag hreg
  refine ⟨decode_shl x y, t, e, hflag.trans (shiftOutLeft_eq_div _), fun hx => ?_, hpc, hframe⟩
  rw [hreg hx, BitVec.toNat_shiftLeft, Nat.shiftLeft_eq, pow_one]

end Sys2Proof.Machine
end

section
/-! ## The index register and memory (43_index_memory.md)

An instruction of this family writes I, or a run of memory from I upward, or a run of registers from there, and moves pc
by 2. What such an update leaves is said once per kind; a statement adds what the written value is, and for a transfer
that it raises the fault of the table of R222 where the run would pass 4095. -/

namespace Sys2Proof

/-! ### The words of the family -/

/-- A word of format X whose pattern is in the opcode map (R72, R76). -/
theorem decode_pattern_x {op : Nibble} {kk : Byte} {build : Nibble → Instr}
    (hrow : ⟨0xF0FF#16, op ++ 0#4 ++ kk, fun w => build (Word.x w)⟩ ∈ opTable) (x : Nibble) :
    decode (op ++ x ++ kk) = .ok (build x) := by
  refine (decode_of_selects hrow ?_).trans ?_
  · rw [selects_F0FF, toNat_pattern_xkk, toNat_pattern_xkk, BitVec.toNat_ofNat]
    exact decide_eq_true (by omega)
  · simp only [Word.x_pattern_xkk]

theorem decode_ldI (nnn : Addr) : decode (0xA#4 ++ nnn) = .ok (.ldI nnn) :=
  decode_pattern_nnn (by simp [opTable, rowsAKD]) nnn

theorem decode_addI (x : Nibble) : decode (0xF#4 ++ x ++ 0x1E#8) = .ok (.addI x) :=
  decode_pattern_x (by simp [opTable, rowsX]) x

theorem decode_ldFont (x : Nibble) : decode (0xF#4 ++ x ++ 0x29#8) = .ok (.ldFont x) :=
  decode_pattern_x (by simp [opTable, rowsX]) x

theorem decode_ldBcd (x : Nibble) : decode (0xF#4 ++ x ++ 0x33#8) = .ok (.ldBcd x) :=
  decode_pattern_x (by simp [opTable, rowsX]) x

theorem decode_storeRegs (x : Nibble) : decode (0xF#4 ++ x ++ 0x55#8) = .ok (.storeRegs x) :=
  decode_pattern_x (by simp [opTable, rowsX]) x

theorem decode_loadRegs (x : Nibble) : decode (0xF#4 ++ x ++ 0x65#8) = .ok (.loadRegs x) :=
  decode_pattern_x (by simp [opTable, rowsX]) x

end Sys2Proof

namespace Sys2Proof.Machine

/-! ### Writing I -/

/-- Five times a byte is below 65536, so that nothing wraps (R172). -/
theorem toNat_glyphAddr (b : Byte) : (glyphAddr b).toNat = 5 * b.toNat := by
  have hb : (byteWord b).toNat = b.toNat := BitVec.toNat_setWidth_of_le (by decide)
  rw [glyphAddr, BitVec.toNat_mul, hb]
  exact Nat.mod_eq_of_lt (show 5 * b.toNat < 65536 by omega)

theorem frameIndex_setI (s : State) (w : Word) : frameIndex s ((s.setI w).advance 2) :=
  ⟨fun _ => rfl, fun _ => rfl, ⟨rfl, rfl⟩, fun _ _ => rfl, ⟨rfl, rfl⟩, rfl, rfl⟩

/-- Settles O32: each is one write of I. -/
theorem indexLoads : Obligations.IndexLoads := by
  unfold Obligations.IndexLoads
  exact fun nnn x s => ⟨decode_ldI nnn, decode_addI x, decode_ldFont x,
    ⟨_, rfl, toNat_addrWord nnn, rfl, frameIndex_setI s _⟩,
    ⟨_, rfl, toNat_add_byteWord s.i (s.reg x), rfl, frameIndex_setI s _⟩,
    ⟨_, rfl, toNat_glyphAddr (s.reg x), rfl, frameIndex_setI s _⟩⟩

/-! ### Storing from I upward -/

theorem frameStore_storeBytes (s : State) (a : Nat) (bs : List Byte) :
    frameStore s ((s.storeBytes a bs).advance 2) :=
  ⟨fun _ => rfl, rfl, ⟨rfl, rfl⟩, fun _ _ => rfl, ⟨rfl, rfl⟩, rfl, rfl⟩

/-- LD B with its three bytes inside memory (R173). -/
theorem exec_ldBcd_of_le {s : State} (x : Nibble) (h : s.i.toNat + 2 ≤ 4095) :
    exec (.ldBcd x) s = .next ((s.storeBytes s.i.toNat (bcdDigits (s.reg x))).advance 2) :=
  State.withData_ok _ (.inr (by omega))

/-- LD [I],Vx with its bytes inside memory (R174). -/
theorem exec_storeRegs_of_le {s : State} (x : Nibble) (h : s.i.toNat + x.toNat ≤ 4095) :
    exec (.storeRegs x) s = .next ((s.storeBytes s.i.toNat (s.regsUpTo x)).advance 2) :=
  State.withData_ok _ (.inr (by omega))

/-- The stored digits as numbers: each is below 256, so that its byte holds it (R173). -/
theorem map_toNat_bcdDigits (b : Byte) :
    (bcdDigits b).map BitVec.toNat = [b.toNat / 100, b.toNat / 10 % 10, b.toNat % 10] := by
  simp only [bcdDigits, List.map_cons, List.map_nil, BitVec.toNat_ofNat, List.cons.injEq, and_true]
  omega

/-- Memory after the digits of a byte are stored from `n` upward (R173). -/
theorem State.toNat_byte_storeBytes_bcdDigits (s : State) {n : Nat} (b : Byte) (h : n + 2 ≤ 4095) (a : Nat) :
    ((s.storeBytes n (bcdDigits b)).byte a).toNat =
      if a = n then b.toNat / 100
      else if a = n + 1 then b.toNat / 10 % 10
      else if a = n + 2 then b.toNat % 10
      else (s.byte a).toNat := by
  have hbound : n + (bcdDigits b).length ≤ 4096 := Nat.succ_le_succ h
  have hdigit (k : Nat) (hk : k < 3) :
      ((s.storeBytes n (bcdDigits b)).byte (n + k)).toNat = ((bcdDigits b).map BitVec.toNat)[k] :=
    (congrArg BitVec.toNat (s.byte_storeBytes_add hbound hk)).trans (List.getElem_map _).symm
  simp only [map_toNat_bcdDigits] at hdigit
  split_ifs with h0 h1 h2
  · exact h0 ▸ hdigit 0 (by decide)
  · exact h1 ▸ hdigit 1 (by decide)
  · exact h2 ▸ hdigit 2 (by decide)
  · rw [s.byte_storeBytes_of_outside hbound (by rw [bcdDigits_length]; omega)]

/-- Settles O33: inside memory the three digits are stored from I, and past 4095 the table of R222 names the fault. -/
theorem bcdStoresDigits : Obligations.BcdStoresDigits := by
  unfold Obligations.BcdStoresDigits
  exact fun x s => ⟨decode_ldBcd x,
    fun h => ⟨_, exec_ldBcd_of_le x h, s.toNat_byte_storeBytes_bcdDigits (s.reg x) h, rfl,
      frameStore_storeBytes s _ _⟩,
    fun h => exec_eq_fault_iff.mpr (if_pos h)⟩

/-- Memory after LD [I],Vx has completed (R174). -/
theorem byte_of_exec_storeRegs_eq_ite {x : Nibble} {s t : State} (h : exec (.storeRegs x) s = .next t) (a : Nat) :
    t.byte a = if s.i.toNat ≤ a ∧ a ≤ s.i.toNat + x.toNat then s.reg (BitVec.ofNat 4 (a - s.i.toNat))
      else s.byte a := by
  split
  · next ha =>
    obtain ⟨k, rfl⟩ := Nat.exists_eq_add_of_le ha.1
    rw [byte_of_exec_storeRegs h (by omega), Nat.add_sub_cancel_left]
  · next ha => exact exec_sameBytesOutside (.storeRegs x) s t h a (by simp only [bytesStored]; omega)

/-- Settles O34: inside memory V[0] to V[X] are stored from I, and past 4095 the table of R222 names the fault. -/
theorem registersAreStored : Obligations.RegistersAreStored := by
  unfold Obligations.RegistersAreStored
  refine fun x s => ⟨decode_storeRegs x, fun h => ?_, fun h => exec_eq_fault_iff.mpr (if_pos h)⟩
  have e := exec_storeRegs_of_le x h
  exact ⟨_, e, byte_of_exec_storeRegs_eq_ite e, rfl, frameStore_storeBytes s _ _⟩

/-! ### Loading from I upward -/

/-- LD Vx,[I] with its bytes inside memory (R175). -/
theorem exec_loadRegs_of_le {s : State} (x : Nibble) (h : s.i.toNat + x.toNat ≤ 4095) :
    exec (.loadRegs x) s = .next ((s.fillRegs s.byte s.i.toNat (x.toNat + 1)).advance 2) :=
  State.withData_ok _ (.inr (by omega))

/-- V[0] to V[X] hold the bytes from `a` upward, the others what they held (R175). -/
theorem State.reg_fillRegs_upTo (s : State) (bytes : Nat → Byte) (a : Nat) (x r : Nibble) :
    (s.fillRegs bytes a (x.toNat + 1)).reg r = if r.toNat ≤ x.toNat then bytes (a + r.toNat) else s.reg r := by
  simp only [s.reg_fillRegs bytes a _ x.isLt, Nat.lt_succ_iff]

theorem sameBeyondRegs_fillRegs (s : State) (bytes : Nat → Byte) (a n : Nat) :
    sameBeyondRegs s ((s.fillRegs bytes a n).advance 2) := by
  rw [State.fillRegs_eq]
  exact sameBeyondRegs_regs s _ _ _

/-- Settles O35: inside memory V[0] to V[X] are filled from I, and past 4095 the table of R222 names the fault. -/
theorem registersAreLoaded : Obligations.RegistersAreLoaded := by
  unfold Obligations.RegistersAreLoaded
  refine fun x s => ⟨decode_loadRegs x, fun h => ?_, fun h => exec_eq_fault_iff.mpr (if_pos h)⟩
  have e := exec_loadRegs_of_le x h
  exact ⟨_, e, s.reg_fillRegs_upTo s.byte s.i.toNat x, (changesByTable_of_exec e).pc,
    sameBeyondRegs_fillRegs s _ _ _⟩

/-- Settles O36: the load reads the range that the store wrote, which lies inside memory, and V[k] is at I + k there. -/
theorem loadUndoesStore : Obligations.LoadUndoesStore := by
  unfold Obligations.LoadUndoesStore
  intro x s t u h hi hmem
  obtain ⟨hb, rfl⟩ := exec_storeRegs_eq_next h
  replace hi : u.i = s.i := hi
  refine ⟨_, exec_loadRegs_of_le x (by rw [hi]; omega), fun r hr => ?_⟩
  rw [State.reg_advance, State.reg_fillRegs_upTo, if_pos hr, hmem, hi, byte_of_exec_storeRegs h hr,
    BitVec.ofNat_toNat, BitVec.setWidth_eq]

end Sys2Proof.Machine
end

section
/-! ## The display (44_display.md)

A draw collides exactly where a 1 bit of the sprite falls on a pixel that is on, and those are the pixels that its xor
turns off. Said of the whole state that a completed draw leaves, that gives the draw, and the second draw too: it xors
the same sprite in again. -/

namespace Sys2Proof

/-- A word of format D, whose pattern is the last row of the opcode map (R72, R76). -/
theorem decode_drw (x y n : Nibble) : decode (0xD#4 ++ x ++ y ++ n) = .ok (.drw x y n) := by
  have hrow : ⟨0xF000#16, 0xD000#16, fun w => .drw (Word.x w) (Word.y w) (Word.n w)⟩ ∈ opTable := by
    simp [opTable, rowsAKD]
  refine (decode_of_selects hrow ?_).trans ?_
  · rw [selects_F000, toNat_pattern_xyn, BitVec.toNat_ofNat, BitVec.toNat_ofNat]
    exact decide_eq_true (by omega)
  · simp only [Word.x_pattern_xyn, Word.y_pattern_xyn, Word.n_pattern_xyn]

end Sys2Proof

namespace Sys2Proof.Machine

/-! ### Clear screen -/

theorem frameClear_setDisp (s : State) (d : Display) : frameClear s ((s.setDisp d).advance 2) :=
  ⟨fun _ => rfl, rfl, fun _ => rfl, ⟨rfl, rfl⟩, ⟨rfl, rfl⟩, rfl, rfl⟩

/-- Settles O38: CLS is one write of the display. -/
theorem clearTurnsAllPixelsOff : Obligations.ClearTurnsAllPixelsOff := by
  unfold Obligations.ClearTurnsAllPixelsOff
  exact fun s => ⟨rfl, _, rfl, Display.pixel_blank, rfl, frameClear_setDisp s _⟩

/-! ### Where a sprite falls, and where it collides -/

/-- A pixel is under a 1 bit of the sprite exactly when it is the target of one (R191). -/
theorem spriteOn_eq_true_iff {bytes : Nat → Byte} {a : Nat} {x0 y0 : Byte} {n : Nat} {px : Fin 64} {py : Fin 32} :
    spriteOn bytes a x0 y0 n px py = true ↔ ∃ r < n, ∃ b < 8,
      spriteCol x0 b = px ∧ spriteLine y0 r = py ∧ (bytes (a + r)).getLsbD (7 - b) = true := by
  simp [spriteOn, spriteCol, spriteLine, Fin.ext_iff, and_assoc]

/-- A draw collides exactly when some pixel that is on is under a 1 bit of the sprite (R191). -/
theorem blit_coll_iff {bytes : Nat → Byte} {a : Nat} {x0 y0 : Byte} {n : Nat} (hn : n ≤ 15) {d : Display} :
    (blit bytes a x0 y0 n (d, false)).2 = true ↔
      ∃ px py, d.pixel px py = true ∧ spriteOn bytes a x0 y0 n px py = true := by
  simp only [blit_coll _ _ _ _ n hn, Bool.false_or, List.any_eq_true, List.mem_range, Bool.and_eq_true,
    spriteOn_eq_true_iff]
  constructor
  · rintro ⟨r, hr, b, hb, hbit, hon⟩
    exact ⟨_, _, hon, r, hr, b, hb, rfl, rfl, hbit⟩
  · rintro ⟨_, _, hon, r, hr, b, hb, rfl, rfl, hbit⟩
    exact ⟨r, hr, b, hb, hbit, hon⟩

/-! ### The state a completed draw leaves -/

/-- The pixels under the sprite that DRW Vx,Vy,N draws. -/
def State.spriteAt (s : State) (x y n : Nibble) : Fin 64 → Fin 32 → Bool :=
  spriteOn s.byte s.i.toNat (s.reg x) (s.reg y) n.toNat

/-- The sprite is a matter of memory, I, V[X] and V[Y] alone. -/
theorem State.spriteAt_congr {s s' : State} {x y : Nibble} (n : Nibble) (hmem : sameMem s s') (hi : s'.i = s.i)
    (hx : s'.reg x = s.reg x) (hy : s'.reg y = s.reg y) : s'.spriteAt x y n = s.spriteAt x y n := by
  rw [State.spriteAt, funext hmem, hi, hx, hy, State.spriteAt]

/-- The display after the draw, and whether it collided. -/
def State.blitted (s : State) (x y n : Nibble) : Display × Bool :=
  blit s.byte s.i.toNat (s.reg x) (s.reg y) n.toNat (s.disp, false)

/-- The state after DRW Vx,Vy,N where it completes (`exec_drw_of_le`). -/
def State.drawn (s : State) (x y n : Nibble) : State :=
  ((s.setDisp (s.blitted x y n).1).setReg 15 (collisionFlag (s.blitted x y n).2)).advance 2

/-- DRW with its rows inside memory, or with no row (R191). -/
theorem exec_drw_of_le {s : State} {n : Nibble} (x y : Nibble) (h : n.toNat = 0 ∨ s.i.toNat + n.toNat ≤ 4096) :
    exec (.drw x y n) s = .next (s.drawn x y n) :=
  State.withData_ok _ h

/-- DRW completes only with its rows inside memory, or with no row (R61, R191). -/
theorem exec_drw_eq_next {x y n : Nibble} {s t : State} (h : exec (.drw x y n) s = .next t) :
    (n.toNat = 0 ∨ s.i.toNat + n.toNat ≤ 4096) ∧ t = s.drawn x y n := by
  rcases execDrw_cases x y n s with ⟨hb, e⟩ | ⟨-, -, e⟩ <;> cases h.symm.trans e
  exact ⟨hb, rfl⟩

section
variable (s : State) (x y n : Nibble)

theorem State.pixel_drawn (px : Fin 64) (py : Fin 32) :
    (s.drawn x y n).disp.pixel px py = (s.disp.pixel px py ^^ s.spriteAt x y n px py) :=
  blit_pixel _ _ _ _ _ (Nat.le_of_lt_succ n.isLt) _ px py

theorem State.reg_drawn_flag : (s.drawn x y n).reg 15 = flagByte (s.blitted x y n).2 :=
  State.reg_setReg_self _ 15 _

theorem frameDraw_drawn : frameDraw s (s.drawn x y n) :=
  ⟨fun _ hr => (State.reg_setReg _ _ _ _).trans (if_neg hr), rfl, fun _ => rfl, ⟨rfl, rfl⟩, ⟨rfl, rfl⟩, rfl, rfl⟩

theorem State.blitted_coll_iff :
    (s.blitted x y n).2 = true ↔ ∃ px py, s.disp.pixel px py = true ∧ s.spriteAt x y n px py = true :=
  blit_coll_iff (Nat.le_of_lt_succ n.isLt)

/-- The collisions are the pixels that go from on to off: of those that are on, the xor turns off the ones under the
sprite. -/
theorem State.blitted_coll_iff_turned_off : (s.blitted x y n).2 = true ↔
    ∃ px py, s.disp.pixel px py = true ∧ (s.drawn x y n).disp.pixel px py = false := by
  refine (s.blitted_coll_iff x y n).trans (exists₂_congr fun px py => and_congr_right fun hon => ?_)
  rw [State.pixel_drawn, hon, Bool.true_xor, Bool.not_eq_false']

end

/-! ### One draw, and a second -/

/-- Settles O39: the state a completed draw leaves, and past 4095 the fault that the table of R222 names. -/
theorem drawXorsEveryPixel : Obligations.DrawXorsEveryPixel := by
  unfold Obligations.DrawXorsEveryPixel
  refine fun x y n s => ⟨decode_drw x y n, fun h => ?_, fun h0 h => ?_⟩
  · have hb : n.toNat = 0 ∨ s.i.toNat + n.toNat ≤ 4096 := h.imp (congrArg BitVec.toNat) (by omega)
    have hcoll := s.blitted_coll_iff_turned_off x y n
    have hflag := s.reg_drawn_flag x y n
    exact ⟨_, exec_drw_of_le x y hb, s.pixel_drawn x y n,
      fun hoff => hflag.trans (flagByte_eq_one.mpr (hcoll.mpr hoff)),
      fun hoff => hflag.trans (flagByte_eq_zero.mpr (Bool.eq_false_iff.mpr (mt hcoll.mp hoff))),
      rfl, frameDraw_drawn s x y n⟩
  · have hrow : 0 < n.toNat := Nat.pos_of_ne_zero fun hn => h0 (BitVec.eq_of_toNat_eq hn)
    exact exec_eq_fault_iff.mpr (if_pos ⟨hrow, h⟩)

/-- Settles O40: the second draw xors the same sprite in again, which cancels, and a pixel under the sprite is on before
it exactly when it was off before the first. -/
theorem secondDrawRestores : Obligations.SecondDrawRestores := by
  unfold Obligations.SecondDrawRestores
  intro x y n s t s' h hpix hmem hi hx hy
  obtain ⟨hb, rfl⟩ := exec_drw_eq_next h
  have hsprite := State.spriteAt_congr n hmem hi hx hy
  have hdisp : ∀ px py, s'.disp.pixel px py = (s.disp.pixel px py ^^ s.spriteAt x y n px py) :=
    fun px py => (hpix px py).trans (s.pixel_drawn x y n px py)
  refine ⟨_, exec_drw_of_le x y (hi ▸ hb), fun px py => ?_, ?_⟩
  · rw [State.pixel_drawn, hsprite, hdisp, Bool.xor_assoc, Bool.xor_self, Bool.xor_false]
  · rw [State.reg_drawn_flag]
    refine flagByte_eq_one.trans ((s'.blitted_coll_iff x y n).trans (exists₂_congr fun px py => ?_))
    rw [hsprite, hdisp]
    refine and_congr_left fun hon => ?_
    rw [hon, Bool.xor_true, Bool.not_eq_true']

end Sys2Proof.Machine
end

section
/-! ## The keypad and the timers (45_keypad_timers.md)

SKP and SKNP read the flag of the key that V[X] names and move pc alone. LD Vx,K holds, or takes the latched key, and
the three timer moves are one write each. -/

namespace Sys2Proof

/-! ### The words of the family -/

theorem decode_skp (x : Nibble) : decode (0xE#4 ++ x ++ 0x9E#8) = .ok (.skp x) :=
  decode_pattern_x (by simp [opTable, rowsX]) x

theorem decode_sknp (x : Nibble) : decode (0xE#4 ++ x ++ 0xA1#8) = .ok (.sknp x) :=
  decode_pattern_x (by simp [opTable, rowsX]) x

theorem decode_ldFromDt (x : Nibble) : decode (0xF#4 ++ x ++ 0x07#8) = .ok (.ldFromDt x) :=
  decode_pattern_x (by simp [opTable, rowsX]) x

theorem decode_ldKey (x : Nibble) : decode (0xF#4 ++ x ++ 0x0A#8) = .ok (.ldKey x) :=
  decode_pattern_x (by simp [opTable, rowsX]) x

theorem decode_ldDt (x : Nibble) : decode (0xF#4 ++ x ++ 0x15#8) = .ok (.ldDt x) :=
  decode_pattern_x (by simp [opTable, rowsX]) x

theorem decode_ldSt (x : Nibble) : decode (0xF#4 ++ x ++ 0x18#8) = .ok (.ldSt x) :=
  decode_pattern_x (by simp [opTable, rowsX]) x

end Sys2Proof

namespace Sys2Proof.Machine

/-! ### Skips on a key -/

/-- SKP where V[X] names a key (R200). -/
theorem exec_skp_of_lt {x : Nibble} {s : State} (h : (s.reg x).toNat < 16) :
    exec (.skp x) s = .next (s.skipIf s.key[(s.reg x).toNat]) := by
  rcases execSkp_cases x s with ⟨_, e⟩ | ⟨hrange, -⟩
  · exact e
  · omega

/-- SKNP where V[X] names a key (R201). -/
theorem exec_sknp_of_lt {x : Nibble} {s : State} (h : (s.reg x).toNat < 16) :
    exec (.sknp x) s = .next (s.skipIf (!s.key[(s.reg x).toNat])) := by
  rcases execSknp_cases x s with ⟨_, e⟩ | ⟨hrange, -⟩
  · exact e
  · omega

/-- A skip on a key that is up, in the spelling of R201. -/
theorem State.skipIf_not_pc_eq_ite_eq_false (s : State) (c : Bool) :
    (s.skipIf (!c)).pc = if c = false then s.pc + 4 else s.pc + 2 := by
  cases c <;> rfl

/-- Settles O41: a skip is one move of pc, and where V[X] names no key the table of R222 names the fault. -/
theorem skipsOnKey : Obligations.SkipsOnKey := by
  unfold Obligations.SkipsOnKey
  refine fun x s => ⟨decode_skp x, decode_sknp x, fun h => ⟨?_, ?_⟩, fun h => ⟨?_, ?_⟩⟩
  · exact ⟨_, exec_skp_of_lt h, s.skipIf_pc_eq_ite _, sameRegs_jump s _, sameBeyondRegs_jump s _⟩
  · exact ⟨_, exec_sknp_of_lt h, s.skipIf_not_pc_eq_ite_eq_false _, sameRegs_jump s _, sameBeyondRegs_jump s _⟩
  · exact exec_eq_fault_iff.mpr (if_pos h)
  · exact exec_eq_fault_iff.mpr (if_pos h)

/-! ### The key wait -/

/-- LD Vx,K with no key latched (R203). -/
theorem exec_ldKey_of_latch_eq_none {s : State} (x : Nibble) (h : s.latch = none) : exec (.ldKey x) s = .next s := by
  rcases execLdKey_cases x s with ⟨-, e⟩ | ⟨k, hk, -⟩
  · exact e
  · cases h.symm.trans hk

/-- LD Vx,K with a key latched (R203). -/
theorem exec_ldKey_of_latch_eq_some {s : State} {k : Nibble} (x : Nibble) (h : s.latch = some k) :
    exec (.ldKey x) s = .next (((s.setReg x (symbolByte k)).setLatch none).advance 2) := by
  rcases execLdKey_cases x s with ⟨hnone, -⟩ | ⟨k', hk, e⟩
  · cases h.symm.trans hnone
  · cases h.symm.trans hk
    exact e

theorem toNat_symbolByte (k : Nibble) : (symbolByte k).toNat = k.toNat :=
  BitVec.toNat_setWidth_of_le (by decide)

theorem frameKeyWait_setReg_setLatch (s : State) (x : Nibble) (b : Byte) (l : Option Nibble) :
    frameKeyWait x s (((s.setReg x b).setLatch l).advance 2) :=
  ⟨fun r hr => (s.reg_setReg x r b).trans (if_neg hr), rfl, fun _ => rfl, ⟨rfl, rfl⟩, fun _ _ => rfl, rfl, rfl, rfl⟩

/-- Settles O42: the wait holds, or it is one write of V[X] and one of the latch. -/
theorem keyWaitHoldsOrTakes : Obligations.KeyWaitHoldsOrTakes := by
  unfold Obligations.KeyWaitHoldsOrTakes
  refine fun x s => ⟨decode_ldKey x, exec_ldKey_of_latch_eq_none x, fun k h => ?_⟩
  have hreg : ((s.setReg x (symbolByte k)).reg x).toNat = k.toNat := by
    rw [State.reg_setReg_self, toNat_symbolByte]
  exact ⟨_, exec_ldKey_of_latch_eq_some x h, hreg, rfl, rfl, frameKeyWait_setReg_setLatch s x _ none⟩

/-! ### The timers -/

theorem frameTimer_setDt (s : State) (b : Byte) : frameTimer s ((s.setDt b).advance 2) :=
  ⟨fun _ => rfl, rfl, fun _ => rfl, ⟨rfl, rfl⟩, fun _ _ => rfl, rfl, rfl⟩

theorem frameTimer_setSt (s : State) (b : Byte) : frameTimer s ((s.setSt b).advance 2) :=
  ⟨fun _ => rfl, rfl, fun _ => rfl, ⟨rfl, rfl⟩, fun _ _ => rfl, rfl, rfl⟩

/-- Settles O43: each is one write, of V[X] or of a timer. -/
theorem timerMoves : Obligations.TimerMoves := by
  unfold Obligations.TimerMoves
  exact fun x s => ⟨decode_ldFromDt x, decode_ldDt x, decode_ldSt x,
    ⟨_, rfl, s.reg_setReg_self x s.dt, rfl, frameReg_setReg s x s.dt _ _⟩,
    ⟨_, rfl, rfl, rfl, rfl, frameTimer_setDt s _⟩,
    ⟨_, rfl, rfl, rfl, rfl, frameTimer_setSt s _⟩⟩

end Sys2Proof.Machine
end

section
/-! ## Faults, LOAD, TICK and DISPLAY (60_exceptions.md)

The faults of a step are those of the tables (`step_eq_fault_iff`), and each leaves the state as it was. LOAD is one
store from 0x200 or nothing, TICK counts both timers down once, and DISPLAY is the rows of the display in order. -/

namespace Sys2Proof.Machine

/-! ### Faults -/

/-- Settles O11: a step is a cycle that executes by the table of R222, so it faults by the tables in the order of
R223. -/
theorem stepFaultsExactlyByTable : Obligations.StepFaultsExactlyByTable := by
  unfold Obligations.StepFaultsExactlyByTable
  exact fun _ _ => step_eq_fault_iff

/-- Settles O14: the operation STEP answers a fault with the state it began in. -/
theorem faultChangesNothing : Obligations.FaultChangesNothing := by
  unfold Obligations.FaultChangesNothing
  exact fun _ _ _ => operate_step_state_of_faulted

/-! ### LOAD -/

theorem State.load_of_length_le (s : State) {bytes : List Byte} (h : bytes.length ≤ 3584) :
    s.load bytes = (.loadOk, s.storeBytes 0x200 bytes) :=
  if_pos (decide_eq_true h)

theorem State.load_of_length_gt (s : State) {bytes : List Byte} (h : 3584 < bytes.length) :
    s.load bytes = (.loadTooLong, s) :=
  if_neg (by simpa [wellFormedRom] using h)

/-- Settles O55: an image that fits ends inside memory, so it reads back from 0x200 as it was stored. -/
theorem loadCopiesVerbatim : Obligations.LoadCopiesVerbatim := by
  unfold Obligations.LoadCopiesVerbatim
  refine fun s bytes => ⟨fun h => ?_, fun h => ?_⟩
  · have hfits : 0x200 + bytes.length ≤ 4096 := by omega
    refine ⟨s.storeBytes 0x200 bytes, ?_, fun a => s.byte_storeBytes 0x200 a bytes hfits, rfl⟩
    simp only [operate, s.load_of_length_le h]
  · simp only [operate, s.load_of_length_gt h]

/-! ### TICK -/

/-- A timer at 0 stays there (R230). -/
theorem toNat_countDown (b : Byte) : (countDown b).toNat = b.toNat - 1 := by
  unfold countDown
  split
  · next h => simp [h]
  · next h => bv_omega

/-- Settles O56: both timers count down once, and the tone is of ST before. -/
theorem tickCountsDown : Obligations.TickCountsDown := by
  unfold Obligations.TickCountsDown
  exact fun s => ⟨s.tick.2, rfl, toNat_countDown s.dt, toNat_countDown s.st, rfl⟩

/-- A run of ticks is the first tick and then the others from the state it leaves (R232). -/
theorem runOps_replicate_succ_tick (s : State) (n : Nat) : runOps s (List.replicate (n + 1) .tick) =
    (.tone (decide (s.st = 1)) :: (runOps s.tick.2 (List.replicate n .tick)).1,
      (runOps s.tick.2 (List.replicate n .tick)).2) := rfl

/-- Both timers are the number of ticks lower, or stopped at 0 (R230). -/
theorem timers_runOps_ticks (s : State) (n : Nat) :
    (runOps s (List.replicate n .tick)).2.st.toNat = s.st.toNat - n ∧
    (runOps s (List.replicate n .tick)).2.dt.toNat = s.dt.toNat - n := by
  induction n generalizing s with
  | zero => exact ⟨rfl, rfl⟩
  | succ n ih =>
    have hst : s.tick.2.st.toNat = s.st.toNat - 1 := toNat_countDown s.st
    have hdt : s.tick.2.dt.toNat = s.dt.toNat - 1 := toNat_countDown s.dt
    obtain ⟨ihst, ihdt⟩ := ih s.tick.2
    rw [runOps_replicate_succ_tick, ihst, ihdt, hst, hdt]
    omega

/-- The first tick sounds at ST = 1; one that comes `k + 1` ticks later finds ST one lower than it was, so that it
sounds at ST = k + 2 (R231). -/
theorem answers_runOps_ticks (s : State) (n : Nat) : (runOps s (List.replicate n .tick)).1 =
    (List.range n).map (fun k => .tone (decide (s.st.toNat = k + 1))) := by
  induction n generalizing s with
  | zero => rfl
  | succ n ih =>
    have hfirst : s.st = 1 ↔ s.st.toNat = 0 + 1 := BitVec.toNat_inj.symm
    have hst : s.tick.2.st.toNat = s.st.toNat - 1 := toNat_countDown s.st
    have hlater : ∀ k, s.st.toNat - 1 = k + 1 ↔ s.st.toNat = k + 1 + 1 := by omega
    simp only [runOps_replicate_succ_tick, ih, hst, hlater, hfirst, List.range_succ_eq_map, List.map_cons,
      List.map_map, Function.comp_def]

/-- Settles O57: by induction on the number of ticks, for every value of the timers at the first. -/
theorem toneSoundsOnLastTick : Obligations.ToneSoundsOnLastTick := by
  unfold Obligations.ToneSoundsOnLastTick
  exact fun s n => ⟨answers_runOps_ticks s n, timers_runOps_ticks s n⟩

/-! ### DISPLAY -/

/-- The rows one after another, as one vector of 32 × 64 pixels (R234). -/
theorem State.display_eq_toList_flatten (s : State) : s.display = s.disp.flatten.toList := by
  rw [Vector.flatten, Vector.toList_mk, Array.toList_flatten, Array.toList_map, List.map_map, Vector.toList_toArray]
  rfl

/-- Settles O59: a pixel of the vector of rows is in row `index / 64` and column `index % 64`. -/
theorem displayIsRowMajor : Obligations.DisplayIsRowMajor := by
  unfold Obligations.DisplayIsRowMajor
  refine fun s => ⟨s.display, rfl, ?_, fun x y => ?_⟩
  · rw [State.display_eq_toList_flatten, Vector.length_toList]
  · have hrow : (y.val * 64 + x.val) / 64 = y.val := by omega
    have hcol : (y.val * 64 + x.val) % 64 = x.val := by omega
    have hindex : y.val * 64 + x.val < 32 * 64 := by omega
    rw [State.display_eq_toList_flatten, Vector.getElem?_toList, Vector.getElem?_eq_getElem hindex,
      Vector.getElem_flatten]
    simp only [hrow, hcol, Display.pixel]

end Sys2Proof.Machine
end

section
/-! ## Decoding undoes encoding (30_encoding.md)

The word of an instruction is the pattern of its row with the operands in the free fields, and it selects that row. The
other way round, a word that selects a row has the row's pattern on the bits the row tests and the fields of R72 on the
others, and those are the operands the row builds: so encoding gives the word back, row by row. -/

namespace Sys2Proof

/-! ### The word of an instruction decodes to it -/

theorem decode_cls : decode 0x00E0#16 = .ok .cls := rfl

theorem decode_ret : decode 0x00EE#16 = .ok .ret := rfl

/-- Settles O2: the word of each instruction selects the instruction's own row, whose fields are its operands. -/
theorem decodeOfEncode : Obligations.DecodeOfEncode := by
  unfold Obligations.DecodeOfEncode
  intro i
  cases i with
  | cls => exact decode_cls
  | ret => exact decode_ret
  | jp nnn => exact decode_jp nnn
  | call nnn => exact decode_call nnn
  | seByte x kk => exact decode_seByte x kk
  | sneByte x kk => exact decode_sneByte x kk
  | seReg x y => exact decode_seReg x y
  | ldByte x kk => exact decode_ldByte x kk
  | addByte x kk => exact decode_addByte x kk
  | ldReg x y => exact decode_ldReg x y
  | orReg x y => exact decode_orReg x y
  | andReg x y => exact decode_andReg x y
  | xorReg x y => exact decode_xorReg x y
  | addReg x y => exact decode_addReg x y
  | subReg x y => exact decode_subReg x y
  | shr x y => exact decode_shr x y
  | subnReg x y => exact decode_subnReg x y
  | shl x y => exact decode_shl x y
  | sneReg x y => exact decode_sneReg x y
  | ldI nnn => exact decode_ldI nnn
  | jpV0 nnn => exact decode_jpV0 nnn
  | rnd x kk => exact decode_rnd x kk
  | drw x y n => exact decode_drw x y n
  | skp x => exact decode_skp x
  | sknp x => exact decode_sknp x
  | ldFromDt x => exact decode_ldFromDt x
  | ldKey x => exact decode_ldKey x
  | ldDt x => exact decode_ldDt x
  | ldSt x => exact decode_ldSt x
  | addI x => exact decode_addI x
  | ldFont x => exact decode_ldFont x
  | ldBcd x => exact decode_ldBcd x
  | storeRegs x => exact decode_storeRegs x
  | loadRegs x => exact decode_loadRegs x

/-- Settles O1: eight of the words are the patterns of their rows with the operands written in, and the table of R78
names the other two. -/
theorem specWordsDecode : Obligations.SpecWordsDecode := by
  unfold Obligations.SpecWordsDecode
  exact ⟨decode_drw 1 2 10, decode_jp 0x234, decode_addReg 10 11, decode_loadRegs 1, decode_cls, decode_ret,
    decode_skp 1, decode_seReg 10 11, (unrecognisedWordsAreTheTable _).2 rfl, (unrecognisedWordsAreTheTable _).2 rfl⟩

/-! ### A word is the pattern of the row it selects, with its own fields -/

section
variable {op n : Nibble} {kk : Byte} {build : Word → Instr} {w : Word}

/-- A word that selects a row of format A, K or D has the row's leading nibble (R74). -/
theorem div_eq_of_selects_F000 (h : (OpRow.mk 0xF000#16 (op ++ 0#12) build).selects w = true) :
    w.toNat / 4096 = op.toNat := by
  rw [selects_F000, decide_eq_true_iff, toNat_pattern_nnn, BitVec.toNat_zero, Nat.add_zero] at h
  exact Nat.eq_of_mul_eq_mul_right (by decide) h

/-- A word that selects a row of format A (R72, R74). -/
theorem eq_pattern_nnn_of_selects (h : (OpRow.mk 0xF000#16 (op ++ 0#12) build).selects w = true) :
    op ++ Word.nnn w = w := by
  have hop := div_eq_of_selects_F000 h
  rw [← BitVec.toNat_inj, toNat_pattern_nnn, Word.toNat_nnn]
  omega

/-- A word that selects a row of format K (R72, R74). -/
theorem eq_pattern_xkk_of_selects (h : (OpRow.mk 0xF000#16 (op ++ 0#12) build).selects w = true) :
    op ++ Word.x w ++ Word.kk w = w := by
  have hop := div_eq_of_selects_F000 h
  rw [← BitVec.toNat_inj, toNat_pattern_xkk, Word.toNat_x, Word.toNat_kk]
  omega

/-- A word that selects a row of format D (R72, R74). -/
theorem eq_pattern_drw_of_selects (h : (OpRow.mk 0xF000#16 (op ++ 0#12) build).selects w = true) :
    op ++ Word.x w ++ Word.y w ++ Word.n w = w := by
  have hop := div_eq_of_selects_F000 h
  rw [← BitVec.toNat_inj, toNat_pattern_xyn, Word.toNat_x, Word.toNat_y, Word.toNat_n]
  omega

/-- A word that selects a row of format R (R72, R74). -/
theorem eq_pattern_xyn_of_selects (h : (OpRow.mk 0xF00F#16 (op ++ 0#4 ++ 0#4 ++ n) build).selects w = true) :
    op ++ Word.x w ++ Word.y w ++ n = w := by
  rw [selects_F00F, decide_eq_true_iff, nibble_add_eq_iff (by omega), toNat_pattern_xyn, BitVec.toNat_zero] at h
  rw [← BitVec.toNat_inj, toNat_pattern_xyn, Word.toNat_x, Word.toNat_y]
  omega

/-- A word that selects a row of format X (R72, R74). -/
theorem eq_pattern_x_of_selects (h : (OpRow.mk 0xF0FF#16 (op ++ 0#4 ++ kk) build).selects w = true) :
    op ++ Word.x w ++ kk = w := by
  rw [selects_F0FF, decide_eq_true_iff, nibble_add_eq_iff (by omega), toNat_pattern_xkk, BitVec.toNat_zero] at h
  rw [← BitVec.toNat_inj, toNat_pattern_xkk, Word.toNat_x]
  omega

/-- A word that selects a row of format L (R72, R74). -/
theorem eq_pattern_of_selects {p : Word} (h : (OpRow.mk 0xFFFF#16 p build).selects w = true) : p = w := by
  rw [selects_FFFF, decide_eq_true_iff, BitVec.toNat_inj] at h
  exact h.symm

end

/-! ### What a row builds from a word encodes as the word -/

/-- Every word that selects the row is the word of the instruction that the row builds from it. -/
def OpRow.Recovers (r : OpRow) : Prop := ∀ w, r.selects w = true → encode (r.build w) = w

theorem recovers_rowsL : ∀ r ∈ rowsL, r.Recovers := by
  intro r hr
  fin_cases hr <;> exact fun _ h => eq_pattern_of_selects h

theorem recovers_rowsX : ∀ r ∈ rowsX, r.Recovers := by
  intro r hr
  fin_cases hr <;> exact fun _ h => eq_pattern_x_of_selects h

theorem recovers_rowsR : ∀ r ∈ rowsR, r.Recovers := by
  intro r hr
  fin_cases hr <;> exact fun _ h => eq_pattern_xyn_of_selects h

theorem recovers_rowsAKD : ∀ r ∈ rowsAKD, r.Recovers := by
  simp only [rowsAKD, List.forall_mem_cons]
  exact ⟨fun _ h => eq_pattern_nnn_of_selects h, fun _ h => eq_pattern_nnn_of_selects h,
    fun _ h => eq_pattern_xkk_of_selects h, fun _ h => eq_pattern_xkk_of_selects h,
    fun _ h => eq_pattern_xkk_of_selects h, fun _ h => eq_pattern_xkk_of_selects h,
    fun _ h => eq_pattern_nnn_of_selects h, fun _ h => eq_pattern_nnn_of_selects h,
    fun _ h => eq_pattern_xkk_of_selects h, fun _ h => eq_pattern_drw_of_selects h, nofun⟩

theorem recovers_opTable : ∀ r ∈ opTable, r.Recovers := by
  simp only [opTable, List.forall_mem_append]
  exact ⟨⟨⟨recovers_rowsL, recovers_rowsX⟩, recovers_rowsR⟩, recovers_rowsAKD⟩

/-- A word that decodes selects a row, and decodes to what the row builds (R74). -/
theorem exists_row_of_decode {w : Word} {i : Instr} (h : decode w = .ok i) :
    ∃ r ∈ opTable, r.selects w = true ∧ r.build w = i := by
  cases hfind : opTable.find? fun r => r.selects w with
  | none => exact absurd ((decode_of_none hfind).symm.trans h) nofun
  | some r =>
    have hsel : r.selects w = true := List.find?_some (p := fun r : OpRow => r.selects w) hfind
    exact ⟨r, List.mem_of_find?_eq_some hfind, hsel, Except.ok.inj ((decode_of_find hfind).symm.trans h)⟩

/-- Settles O3: the row that the word selects builds the instruction, which encodes as the word. -/
theorem encodeOfDecode : Obligations.EncodeOfDecode := by
  unfold Obligations.EncodeOfDecode
  intro w i h
  obtain ⟨r, hr, hsel, rfl⟩ := exists_row_of_decode h
  exact recovers_opTable r hr w hsel

end Sys2Proof
end

section
/-! ## Memory's canonical form (the model's choice, log entry 11)

The invariant speaks of memory and the font alone. Two instructions write memory, and LOAD does, by storing bytes,
which keeps the form; RESET lists nothing; nothing else changes memory. In the form the listed entries are the bytes
that read otherwise than RESET left them, in one order, so memories that read alike are equal. -/

namespace Sys2Proof.Machine

/-! ### Steps -/

theorem State.inv_resetWith (p : Config.Params) : (State.resetWith p).Inv := Memory.wf_nil

/-- Settles O49: after RESET memory lists nothing. -/
theorem resetHasMemoryForm : Obligations.ResetHasMemoryForm := by
  unfold Obligations.ResetHasMemoryForm
  exact State.inv_resetWith Params.default

theorem State.inv_storeBytes {s : State} (h : s.Inv) (a : Nat) (bs : List Byte) : (s.storeBytes a bs).Inv :=
  Memory.wf_writeBytes h a bs

theorem State.inv_fillRegs {s : State} (h : s.Inv) (bytes : Nat → Byte) (a n : Nat) : (s.fillRegs bytes a n).Inv := by
  rw [State.fillRegs_eq]
  exact h

/-- Every instruction keeps the form: two store bytes, and the others leave memory and the font. -/
theorem exec_keeps_inv (i : Instr) {s : State} (h : s.Inv) : NextSatisfies State.Inv (exec i s) := by
  cases i
  case ldBcd x =>
    exact nextSatisfies_of_next_or_fault ((execLdBcd_cases x s).imp_left exists_prop.mpr)
      fun _ => State.inv_storeBytes h s.i.toNat (bcdDigits (s.reg x))
  case storeRegs x =>
    exact nextSatisfies_of_next_or_fault ((execStoreRegs_cases x s).imp_left exists_prop.mpr)
      fun _ => State.inv_storeBytes h s.i.toNat (s.regsUpTo x)
  case loadRegs x =>
    exact nextSatisfies_of_next_or_fault ((execLoadRegs_cases x s).imp_left exists_prop.mpr)
      fun _ => State.inv_fillRegs h s.byte s.i.toNat (x.toNat + 1)
  case ret => exact nextSatisfies_of_next_or_fault (execRet_cases s) fun _ => h
  case call nnn => exact nextSatisfies_of_next_or_fault (execCall_cases nnn s) fun _ => h
  case skp x => exact nextSatisfies_of_next_or_fault (execSkp_cases x s) fun _ => h
  case sknp x => exact nextSatisfies_of_next_or_fault (execSknp_cases x s) fun _ => h
  case drw x y n =>
    exact nextSatisfies_of_next_or_fault ((execDrw_cases x y n s).imp exists_prop.mpr and_assoc.mpr) fun _ => h
  case ldKey x =>
    rcases execLdKey_cases x s with ⟨-, e⟩ | ⟨k, -, e⟩
    exacts [nextSatisfies_of_eq_next e h, nextSatisfies_of_eq_next e h]
  all_goals exact nextSatisfies_of_eq_next rfl h

theorem execWith_keeps_inv (r : Byte) (i : Instr) {s : State} (h : s.Inv) :
    NextSatisfies State.Inv (execWith r i s) := by
  rcases execWith_cases r i s with ⟨x, kk, -, e⟩ | ⟨-, e⟩
  · exact nextSatisfies_of_eq_next e h
  · exact e ▸ exec_keeps_inv i h

/-- Settles O50: a step executes an instruction, or advances pc alone, or faults. -/
theorem stepKeepsMemoryForm : Obligations.StepKeepsMemoryForm := by
  unfold Obligations.StepKeepsMemoryForm
  exact fun s t h => nextSatisfies_cycle (fun i => exec_keeps_inv i h) h t

/-! ### Operations -/

theorem State.inv_load {s : State} (h : s.Inv) (bytes : List Byte) : (s.load bytes).2.Inv := by
  unfold State.load
  split
  · exact State.inv_storeBytes h Config.progBase bytes
  · exact h

theorem State.inv_keyEvent {s : State} (h : s.Inv) (k : Nibble) (pressed : Bool) : (s.keyEvent k pressed).Inv := by
  rw [State.keyEvent_eq_withInputs]
  exact h

theorem operate_keeps_inv (s : State) (op : Operation) (h : s.Inv) : (operate s op).2.Inv := by
  cases op with
  | reset => exact State.inv_resetWith s.params
  | load bytes => exact State.inv_load h bytes
  | step r =>
    exact operate_step_of_nextSatisfies (P := State.Inv) h (nextSatisfies_cycle (fun i => execWith_keeps_inv r i h) h)
  | tick => exact h
  | key k pressed =>
    simp only [operate]
    split
    · exact State.inv_keyEvent h (BitVec.ofNat 4 k) pressed
    · exact h
  | display => exact h

/-- Settles O51: each operation keeps the form, so every sequence of them does. -/
theorem operationsKeepMemoryForm : Obligations.OperationsKeepMemoryForm := by
  unfold Obligations.OperationsKeepMemoryForm
  exact fun s ops h => runOps_keeps operate_keeps_inv h ops

/-! ### Uniqueness -/

theorem Memory.of_wf_cons {font : Config.Font} {k : Nat} {c : Byte} {m : Memory} (h : Memory.wf font ((k, c) :: m)) :
    (∀ d ∈ m, k < d.1) ∧ c ≠ Memory.initial font k ∧ m.wf font := by
  obtain ⟨hrising, hentry⟩ := h
  obtain ⟨hlt, hrest⟩ := List.pairwise_cons.mp hrising
  obtain ⟨⟨_, hc⟩, hentryRest⟩ := List.forall_mem_cons.mp hentry
  exact ⟨hlt, hc, hrest, hentryRest⟩

/-- A memory in canonical form lists exactly the bytes that read otherwise than RESET left them (R36). -/
theorem Memory.mem_iff_read {font : Config.Font} {m : Memory} (h : m.wf font) {a : Nat} {b : Byte} :
    (a, b) ∈ m ↔ m.read font a = b ∧ b ≠ Memory.initial font a := by
  induction m with
  | nil => exact ⟨nofun, fun ⟨hread, hne⟩ => absurd hread.symm hne⟩
  | cons d m ih =>
    obtain ⟨k, c⟩ := d
    obtain ⟨hlt, hc, hm⟩ := Memory.of_wf_cons h
    rw [List.mem_cons, Prod.mk.injEq, Memory.read]
    split
    · next hk =>
      subst hk
      have hnot : (k, b) ∉ m := fun hmem => Nat.lt_irrefl k (hlt _ hmem)
      constructor
      · rintro (⟨-, rfl⟩ | hmem)
        exacts [⟨rfl, hc⟩, absurd hmem hnot]
      · rintro ⟨rfl, -⟩
        exact .inl ⟨rfl, rfl⟩
    · next hk => rw [← ih hm, or_iff_right fun hhead => hk hhead.1.symm]

/-- Settles O52: both memories list the same entries, and both in rising order. -/
theorem memoryFormIsUnique : Obligations.MemoryFormIsUnique := by
  unfold Obligations.MemoryFormIsUnique
  intro font m m' h h' hread
  have : Std.Irrefl fun c d : Host.Cell => c.1 < d.1 := ⟨fun c => Nat.lt_irrefl c.1⟩
  have : Std.Antisymm fun c d : Host.Cell => c.1 < d.1 := ⟨fun _ _ hcd hdc => absurd hdc (Nat.lt_asymm hcd)⟩
  refine List.Pairwise.eq_of_mem_iff h.1 h'.1 fun ⟨a, b⟩ => ?_
  rw [Memory.mem_iff_read h, Memory.mem_iff_read h', hread a]

end Sys2Proof.Machine
end

section
/-! ## Boot, the self-jump, refusals and KEY (70_reset_and_hazards.md, 93_implementation_defined.md, 60_exceptions.md)

LOAD after RESET stores the image where the reset pc fetches. A jump sets pc alone, so to pc itself it changes nothing.
No execution is refused, so no cycle is. KEY writes one flag, and the latch on a press. -/

namespace Sys2Proof.Machine

/-- Settles O54: RESET leaves pc at 0x200, and LOAD stores the image from there. -/
theorem imageIsFetchedAfterReset : Obligations.ImageIsFetchedAfterReset := by
  unfold Obligations.ImageIsFetchedAfterReset
  intro s b0 b1 rest hlen
  have ht : (runOps s [.reset, .load (b0 :: b1 :: rest)]).2 = s.resetOp.storeBytes 0x200 (b0 :: b1 :: rest) :=
    congrArg Prod.snd (s.resetOp.load_of_length_le hlen)
  have hbyte : ∀ (j : Nat) (h : j < (b0 :: b1 :: rest).length),
      (s.resetOp.storeBytes 0x200 (b0 :: b1 :: rest)).byte (0x200 + j) = (b0 :: b1 :: rest)[j] :=
    fun j h => s.resetOp.byte_storeBytes_add (by omega) h
  simp only [ht]
  refine ⟨?_, hbyte⟩
  have hpc : (s.resetOp.storeBytes 0x200 (b0 :: b1 :: rest)).pc.toNat = 0x200 := rfl
  rw [State.fetch_of_lt (by omega), hpc]
  exact congrArg Except.ok (congrArg₂ (· ++ ·) (hbyte 0 (by simp)) (hbyte 1 (by simp)))

/-- Settles O18: the step is one move of pc, to where it is. -/
theorem selfJumpStays : Obligations.SelfJumpStays := by
  unfold Obligations.SelfJumpStays
  intro s nnn hpc hd hself
  have htarget : addrWord nnn = s.pc := BitVec.eq_of_toNat_eq ((toNat_addrWord nnn).trans hself)
  calc step s = exec (.jp nnn) s := cycle_of_decode exec hpc hd
    _ = .next (s.jump s.pc) := by rw [← htarget]; rfl
    _ = .next s := rfl

/-! ### No step is refused -/

theorem exec_ne_refused (i : Instr) (s : State) (e : Refusal) : exec i s ≠ .refused e := by
  intro h
  cases h ▸ exec_followsTables i s

theorem execWith_ne_refused (r : Byte) (i : Instr) (s : State) (e : Refusal) : execWith r i s ≠ .refused e := by
  rcases execWith_cases r i s with ⟨x, kk, -, h⟩ | ⟨-, h⟩ <;> rw [h]
  · exact nofun
  · exact exec_ne_refused i s e

theorem unrecognised_ne_refused (w : Word) (s : State) (e : Refusal) : unrecognised w s ≠ .refused e := by
  rcases unrecognised_cases w s with ⟨-, -, h⟩ | ⟨-, h⟩ <;> rw [h] <;> exact nofun

theorem cycle_ne_refused {ex : Instr → State → Result} {s : State} {e : Refusal}
    (hex : ∀ i, ex i s ≠ .refused e) : cycle ex s ≠ .refused e := by
  rcases cycle_cases ex s with ⟨f, -, h⟩ | ⟨w, i, -, -, h⟩ | ⟨w, _, -, -, h⟩ <;> rw [h]
  · exact nofun
  · exact hex i
  · exact unrecognised_ne_refused w s e

/-- Settles O13: both steps are cycles, and neither way to execute refuses an instruction. -/
theorem noStepIsRefused : Obligations.NoStepIsRefused := by
  unfold Obligations.NoStepIsRefused
  exact fun s e r => ⟨cycle_ne_refused fun i => exec_ne_refused i s e,
    cycle_ne_refused fun i => execWith_ne_refused r i s e⟩

/-! ### KEY -/

theorem operate_key_of_le (s : State) {k : Nat} (pressed : Bool) (h : k ≤ 15) :
    operate s (.key k pressed) = (.done, s.keyEvent (BitVec.ofNat 4 k) pressed) :=
  if_pos (decide_eq_true h)

theorem operate_key_of_gt (s : State) {k : Nat} (pressed : Bool) (h : 15 < k) :
    operate s (.key k pressed) = (.keyRefused, s) :=
  if_neg (by simpa [wellFormedKey] using h)

/-- Settles O58: KEY sets the flag of the symbol, and the latch on a press. -/
theorem keyEventSetsFlagAndLatch : Obligations.KeyEventSetsFlagAndLatch := by
  unfold Obligations.KeyEventSetsFlagAndLatch
  refine fun s k pressed => ⟨fun hk => ?_, operate_key_of_gt s pressed⟩
  have hsymbol : (BitVec.ofNat 4 k).toNat = k := by
    rw [BitVec.toNat_ofNat]
    omega
  refine ⟨_, operate_key_of_le s pressed hk, ?_⟩
  rw [State.keyEvent_eq_withInputs]
  refine ⟨fun j h => ?_, rfl, rfl⟩
  simp only [State.withInputs, Vector.getElem_set, hsymbol, eq_comm]

end Sys2Proof.Machine
end
